-- ==== Sys2Proof/Word.lean ====
section
/-! DEFINITION. The two word types of the block: a byte crosses the bus, an address is 16 bits (00_scope.md R8, R9). -/

namespace Sys2Proof

/-- `u8`: register contents, bus data, operand bytes (00_scope.md R9). Arithmetic wraps modulo 256 (R10). -/
abbrev Byte := BitVec 8

/-- `u16`: PC and bus addresses (00_scope.md R9). Arithmetic wraps modulo 65536 (R10). -/
abbrev Addr := BitVec 16

end Sys2Proof
end

