-- ==== Sys2Proof/Machine/Bits.lean ====
section
/-! DEFINITION. The bit-field, byte-order and extension helpers of 00_scope.md R10. -/

namespace Sys2Proof

/-- `hi:lo`, the u16 value hi * 256 + lo (00_scope.md R10). The one place where byte order within a word is fixed. -/
def word (hi lo : Byte) : Addr := hi ++ lo

/-- `lo8(w) = w[7:0]` (00_scope.md R10). -/
def lo8 (w : Addr) : Byte := w.extractLsb' 0 8

/-- `hi8(w) = w[15:8]` (00_scope.md R10). -/
def hi8 (w : Addr) : Byte := w.extractLsb' 8 8

/-- `page(w) = w[15:8]` (00_scope.md R10). -/
def page (w : Addr) : Byte := hi8 w

/-- `zext_16(v)` (00_scope.md R10). -/
def zext16 (v : Byte) : Addr := v.setWidth 16

/-- `sext_16(v)`: v if v[7] = 0, else v + 0xFF00 (00_scope.md R10). -/
def sext16 (v : Byte) : Addr := if v.msb then zext16 v + 0xFF00 else zext16 v

/-- `signed8(v)`: v if v < 128, else v - 256, as an integer (00_scope.md R10). -/
def signed8 (v : Byte) : Int := if v.toNat < 128 then (v.toNat : Int) else (v.toNat : Int) - 256

end Sys2Proof
end

