-- ==== Sys2Proof/Syntax.lean ====
section
/-! DEFINITION. The instructions and the vocabulary of the Opcode Table (30_encoding.md R100 to R110). -/

namespace Sys2Proof

/-- The 13 addressing-mode tags (30_encoding.md R101). -/
inductive Mode where
  | implicit | accumulator | immediate | zeroPage | zeroPageX | zeroPageY | relative
  | indirectX | indirectY | absolute | absoluteX | absoluteY | indirect
deriving DecidableEq, Repr

/-- The 56 mnemonic tags of the documented set (30_encoding.md R106). -/
inductive Mnemonic where
  | adc | and | asl | bcc | bcs | beq | bit | bmi | bne | bpl | brk | bvc | bvs | clc | cld | cli | clv
  | cmp | cpx | cpy | dec | dex | dey | eor | inc | inx | iny | jmp | jsr | lda | ldx | ldy | lsr | nop
  | ora | pha | php | pla | plp | rol | ror | rti | rts | sbc | sec | sed | sei | sta | stx | sty | tax
  | tay | tsx | txa | txs | tya
deriving DecidableEq, Repr

/-- The opcode classes (30_encoding.md R107, 90_conflicts.md C3). -/
inductive OpcodeClass where
  | documented | undocumentedNop | illegal
deriving DecidableEq, Repr

/-- One entry of the Opcode Table (30_encoding.md R104, 90_conflicts.md C2). An illegal byte has no mnemonic,
mode or cycle count of its own. -/
inductive Entry where
  /-- A byte of class documented: mnemonic, mode, base cycles, page-cross penalty flag. -/
  | documented (m : Mnemonic) (mode : Mode) (cycles : Nat) (pageCross : Bool)
  /-- A byte of class undocumented_nop: mode, base cycles, page-cross penalty flag (R108). -/
  | undocumentedNop (mode : Mode) (cycles : Nat) (pageCross : Bool)
  /-- A byte of class illegal (R109). -/
  | illegal
deriving DecidableEq, Repr

/-- An operand in memory, by the mode that computes its effective address (40_step_and_addressing.md R135). -/
inductive MemOperand where
  | zp (z : Byte)
  | zpX (z : Byte)
  | zpY (z : Byte)
  | abs (w : Addr)
  | absX (w : Addr)
  | absY (w : Addr)
  | indX (z : Byte)
  | indY (z : Byte)
deriving DecidableEq, Repr

/-- The operand of a read instruction: Immediate or in memory (40_step_and_addressing.md R135, R136). -/
inductive ReadOperand where
  | imm (v : Byte)
  | mem (m : MemOperand)
deriving DecidableEq, Repr

/-- The operand of a shift or rotate: the accumulator or in memory (40_step_and_addressing.md R147, 44_shift_rotate.md R240). -/
inductive ShiftOperand where
  | acc
  | mem (m : MemOperand)
deriving DecidableEq, Repr

/-- The operand of JMP: Absolute or Indirect (45_control.md R260). -/
inductive JumpOperand where
  | abs (w : Addr)
  | ind (ptr : Addr)
deriving DecidableEq, Repr

/-- The instructions. One constructor per documented mnemonic, one per undocumented-NOP mode (46_flag_nop.md
R288 to R293, the opcode byte kept where several bytes share the mode), one for the illegal bytes (30_encoding.md R109).
Which operand forms a mnemonic has is `Instr.wellFormed`. -/
inductive Instr where
  -- 41_load_store_transfer.md
  | lda (o : ReadOperand)
  | ldx (o : ReadOperand)
  | ldy (o : ReadOperand)
  | sta (m : MemOperand)
  | stx (m : MemOperand)
  | sty (m : MemOperand)
  | tax
  | tay
  | txa
  | tya
  | tsx
  | txs
  -- 42_stack.md
  | pha
  | php
  | pla
  | plp
  -- 43_arith_logic.md
  | adc (o : ReadOperand)
  | sbc (o : ReadOperand)
  | and (o : ReadOperand)
  | ora (o : ReadOperand)
  | eor (o : ReadOperand)
  | bit (m : MemOperand)
  | cmp (o : ReadOperand)
  | cpx (o : ReadOperand)
  | cpy (o : ReadOperand)
  | inc (m : MemOperand)
  | dec (m : MemOperand)
  | inx
  | iny
  | dex
  | dey
  -- 44_shift_rotate.md
  | asl (o : ShiftOperand)
  | lsr (o : ShiftOperand)
  | rol (o : ShiftOperand)
  | ror (o : ShiftOperand)
  -- 45_control.md
  | bpl (off : Byte)
  | bmi (off : Byte)
  | bvc (off : Byte)
  | bvs (off : Byte)
  | bcc (off : Byte)
  | bcs (off : Byte)
  | bne (off : Byte)
  | beq (off : Byte)
  | jmp (t : JumpOperand)
  | jsr (target : Addr)
  | rts
  | brk
  | rti
  -- 46_flag_nop.md
  | clc
  | sec
  | cli
  | sei
  | cld
  | sed
  | clv
  | nop
  | nopImp (op : Byte)
  | nopImm (op v : Byte)
  | nopZp (op z : Byte)
  | nopZpX (op z : Byte)
  | nopAbs (w : Addr)
  | nopAbsX (op : Byte) (w : Addr)
  -- 60_exceptions.md R300
  | illegal (op : Byte)
deriving DecidableEq, Repr

end Sys2Proof
end

