-- ==== Sys2Proof/WellFormed.lean ====
section
/-! DEFINITION. Which instructions have an encoding: the operand forms of each mnemonic (the **Encoding** parts of
files 41 to 46) and the opcode bytes of the undocumented NOPs and the illegal class (30_encoding.md R108, R109). -/

namespace Sys2Proof

/-- The modes of LDA, ADC, SBC, AND, ORA, EOR and CMP: every read mode but ZeroPageY. -/
def ReadOperand.accForm : ReadOperand → Bool
  | .imm _ | .mem (.zp _) | .mem (.zpX _) | .mem (.abs _) | .mem (.absX _) | .mem (.absY _)
  | .mem (.indX _) | .mem (.indY _) => true
  | .mem (.zpY _) => false

/-- The modes of LDX: Immediate, ZeroPage, ZeroPageY, Absolute, AbsoluteY (41_load_store_transfer.md R161). -/
def ReadOperand.ldxForm : ReadOperand → Bool
  | .imm _ | .mem (.zp _) | .mem (.zpY _) | .mem (.abs _) | .mem (.absY _) => true
  | .mem (.zpX _) | .mem (.absX _) | .mem (.indX _) | .mem (.indY _) => false

/-- The modes of LDY: Immediate, ZeroPage, ZeroPageX, Absolute, AbsoluteX (41_load_store_transfer.md R162). -/
def ReadOperand.ldyForm : ReadOperand → Bool
  | .imm _ | .mem (.zp _) | .mem (.zpX _) | .mem (.abs _) | .mem (.absX _) => true
  | .mem (.zpY _) | .mem (.absY _) | .mem (.indX _) | .mem (.indY _) => false

/-- The modes of CPX and CPY: Immediate, ZeroPage, Absolute (43_arith_logic.md R212, R213). -/
def ReadOperand.cpForm : ReadOperand → Bool
  | .imm _ | .mem (.zp _) | .mem (.abs _) => true
  | .mem (.zpX _) | .mem (.zpY _) | .mem (.absX _) | .mem (.absY _) | .mem (.indX _) | .mem (.indY _) => false

/-- The modes of STA: every memory mode but ZeroPageY (41_load_store_transfer.md R163). -/
def MemOperand.staForm : MemOperand → Bool
  | .zp _ | .zpX _ | .abs _ | .absX _ | .absY _ | .indX _ | .indY _ => true
  | .zpY _ => false

/-- The modes of STX: ZeroPage, ZeroPageY, Absolute (41_load_store_transfer.md R164). -/
def MemOperand.stxForm : MemOperand → Bool
  | .zp _ | .zpY _ | .abs _ => true
  | .zpX _ | .absX _ | .absY _ | .indX _ | .indY _ => false

/-- The modes of STY: ZeroPage, ZeroPageX, Absolute (41_load_store_transfer.md R165). -/
def MemOperand.styForm : MemOperand → Bool
  | .zp _ | .zpX _ | .abs _ => true
  | .zpY _ | .absX _ | .absY _ | .indX _ | .indY _ => false

/-- The modes of BIT: ZeroPage, Absolute (43_arith_logic.md R210). -/
def MemOperand.bitForm : MemOperand → Bool
  | .zp _ | .abs _ => true
  | .zpX _ | .zpY _ | .absX _ | .absY _ | .indX _ | .indY _ => false

/-- The memory modes of INC, DEC and the shifts: ZeroPage, ZeroPageX, Absolute, AbsoluteX (43_arith_logic.md R214,
R215, 44_shift_rotate.md R240). -/
def MemOperand.rmwForm : MemOperand → Bool
  | .zp _ | .zpX _ | .abs _ | .absX _ => true
  | .zpY _ | .absY _ | .indX _ | .indY _ => false

/-- The modes of the shifts: Accumulator and the read-modify-write memory modes (44_shift_rotate.md R240). -/
def ShiftOperand.form : ShiftOperand → Bool
  | .acc => true
  | .mem m => m.rmwForm

/-- The undocumented NOP bytes of Implicit mode (46_flag_nop.md R288). -/
def nopImpBytes : List Byte := [0x1A, 0x3A, 0x5A, 0x7A, 0xDA, 0xFA]

/-- The undocumented NOP bytes of Immediate mode (46_flag_nop.md R289). -/
def nopImmBytes : List Byte := [0x80, 0x82, 0x89, 0xC2, 0xE2]

/-- The undocumented NOP bytes of ZeroPage mode (46_flag_nop.md R290). -/
def nopZpBytes : List Byte := [0x04, 0x44, 0x64]

/-- The undocumented NOP bytes of ZeroPageX mode (46_flag_nop.md R291). -/
def nopZpXBytes : List Byte := [0x14, 0x34, 0x54, 0x74, 0xD4, 0xF4]

/-- The undocumented NOP bytes of AbsoluteX mode (46_flag_nop.md R293). -/
def nopAbsXBytes : List Byte := [0x1C, 0x3C, 0x5C, 0x7C, 0xDC, 0xFC]

/-- The 78 illegal bytes, in the order of 30_encoding.md R109. -/
def illegalBytes : List Byte :=
  [0x02, 0x03, 0x07, 0x0B, 0x0F, 0x12, 0x13, 0x17, 0x1B, 0x1F, 0x22, 0x23, 0x27, 0x2B, 0x2F, 0x32, 0x33, 0x37, 0x3B, 0x3F] ++
  [0x42, 0x43, 0x47, 0x4B, 0x4F, 0x52, 0x53, 0x57, 0x5B, 0x5F, 0x62, 0x63, 0x67, 0x6B, 0x6F, 0x72, 0x73, 0x77, 0x7B, 0x7F] ++
  [0x83, 0x87, 0x8B, 0x8F, 0x92, 0x93, 0x97, 0x9B, 0x9C, 0x9E, 0x9F, 0xA3, 0xA7, 0xAB, 0xAF, 0xB2, 0xB3, 0xB7, 0xBB, 0xBF] ++
  [0xC3, 0xC7, 0xCB, 0xCF, 0xD2, 0xD3, 0xD7, 0xDB, 0xDF, 0xE3, 0xE7, 0xEB, 0xEF, 0xF2, 0xF3, 0xF7, 0xFB, 0xFF]

/-- An instruction that has an encoding. Operand bytes have no reserved values (30_encoding.md R110), so only the
operand's mode and the carried opcode byte are checked. -/
def Instr.wellFormed : Instr → Bool
  | .lda o | .adc o | .sbc o | .and o | .ora o | .eor o | .cmp o => o.accForm
  | .ldx o => o.ldxForm
  | .ldy o => o.ldyForm
  | .cpx o | .cpy o => o.cpForm
  | .sta m => m.staForm
  | .stx m => m.stxForm
  | .sty m => m.styForm
  | .bit m => m.bitForm
  | .inc m | .dec m => m.rmwForm
  | .asl o | .lsr o | .rol o | .ror o => o.form
  | .bpl _ | .bmi _ | .bvc _ | .bvs _ | .bcc _ | .bcs _ | .bne _ | .beq _ | .jmp _ | .jsr _ => true
  | .tax | .tay | .txa | .tya | .tsx | .txs | .pha | .php | .pla | .plp | .inx | .iny | .dex | .dey
  | .rts | .brk | .rti | .clc | .sec | .cli | .sei | .cld | .sed | .clv | .nop => true
  | .nopImp op => nopImpBytes.contains op
  | .nopImm op _ => nopImmBytes.contains op
  | .nopZp op _ => nopZpBytes.contains op
  | .nopZpX op _ => nopZpXBytes.contains op
  | .nopAbs _ => true
  | .nopAbsX op _ => nopAbsXBytes.contains op
  | .illegal op => illegalBytes.contains op

end Sys2Proof
end

