-- ==== Sys2Proof/Decode.lean ====
section
/-! DEFINITION. The Opcode Table (30_encoding.md R104 to R106), the decoder that reads it and nothing else (R111),
and after it the encoder, written from the **Encoding** parts of the instruction rules. -/

namespace Sys2Proof

/-- Opcode map row 0x (30_encoding.md R106). -/
def tableRow0 : List Entry :=
  [ .documented .brk .implicit 7 false,
    .documented .ora .indirectX 6 false,
    .illegal,
    .illegal,
    .undocumentedNop .zeroPage 3 false,
    .documented .ora .zeroPage 3 false,
    .documented .asl .zeroPage 5 false,
    .illegal,
    .documented .php .implicit 3 false,
    .documented .ora .immediate 2 false,
    .documented .asl .accumulator 2 false,
    .illegal,
    .undocumentedNop .absolute 4 false,
    .documented .ora .absolute 4 false,
    .documented .asl .absolute 6 false,
    .illegal ]

/-- Opcode map row 1x (30_encoding.md R106). -/
def tableRow1 : List Entry :=
  [ .documented .bpl .relative 2 false,
    .documented .ora .indirectY 5 true,
    .illegal,
    .illegal,
    .undocumentedNop .zeroPageX 4 false,
    .documented .ora .zeroPageX 4 false,
    .documented .asl .zeroPageX 6 false,
    .illegal,
    .documented .clc .implicit 2 false,
    .documented .ora .absoluteY 4 true,
    .undocumentedNop .implicit 2 false,
    .illegal,
    .undocumentedNop .absoluteX 4 true,
    .documented .ora .absoluteX 4 true,
    .documented .asl .absoluteX 7 false,
    .illegal ]

/-- Opcode map row 2x (30_encoding.md R106). -/
def tableRow2 : List Entry :=
  [ .documented .jsr .absolute 6 false,
    .documented .and .indirectX 6 false,
    .illegal,
    .illegal,
    .documented .bit .zeroPage 3 false,
    .documented .and .zeroPage 3 false,
    .documented .rol .zeroPage 5 false,
    .illegal,
    .documented .plp .implicit 4 false,
    .documented .and .immediate 2 false,
    .documented .rol .accumulator 2 false,
    .illegal,
    .documented .bit .absolute 4 false,
    .documented .and .absolute 4 false,
    .documented .rol .absolute 6 false,
    .illegal ]

/-- Opcode map row 3x (30_encoding.md R106). -/
def tableRow3 : List Entry :=
  [ .documented .bmi .relative 2 false,
    .documented .and .indirectY 5 true,
    .illegal,
    .illegal,
    .undocumentedNop .zeroPageX 4 false,
    .documented .and .zeroPageX 4 false,
    .documented .rol .zeroPageX 6 false,
    .illegal,
    .documented .sec .implicit 2 false,
    .documented .and .absoluteY 4 true,
    .undocumentedNop .implicit 2 false,
    .illegal,
    .undocumentedNop .absoluteX 4 true,
    .documented .and .absoluteX 4 true,
    .documented .rol .absoluteX 7 false,
    .illegal ]

/-- Opcode map row 4x (30_encoding.md R106). -/
def tableRow4 : List Entry :=
  [ .documented .rti .implicit 6 false,
    .documented .eor .indirectX 6 false,
    .illegal,
    .illegal,
    .undocumentedNop .zeroPage 3 false,
    .documented .eor .zeroPage 3 false,
    .documented .lsr .zeroPage 5 false,
    .illegal,
    .documented .pha .implicit 3 false,
    .documented .eor .immediate 2 false,
    .documented .lsr .accumulator 2 false,
    .illegal,
    .documented .jmp .absolute 3 false,
    .documented .eor .absolute 4 false,
    .documented .lsr .absolute 6 false,
    .illegal ]

/-- Opcode map row 5x (30_encoding.md R106). -/
def tableRow5 : List Entry :=
  [ .documented .bvc .relative 2 false,
    .documented .eor .indirectY 5 true,
    .illegal,
    .illegal,
    .undocumentedNop .zeroPageX 4 false,
    .documented .eor .zeroPageX 4 false,
    .documented .lsr .zeroPageX 6 false,
    .illegal,
    .documented .cli .implicit 2 false,
    .documented .eor .absoluteY 4 true,
    .undocumentedNop .implicit 2 false,
    .illegal,
    .undocumentedNop .absoluteX 4 true,
    .documented .eor .absoluteX 4 true,
    .documented .lsr .absoluteX 7 false,
    .illegal ]

/-- Opcode map row 6x (30_encoding.md R106). -/
def tableRow6 : List Entry :=
  [ .documented .rts .implicit 6 false,
    .documented .adc .indirectX 6 false,
    .illegal,
    .illegal,
    .undocumentedNop .zeroPage 3 false,
    .documented .adc .zeroPage 3 false,
    .documented .ror .zeroPage 5 false,
    .illegal,
    .documented .pla .implicit 4 false,
    .documented .adc .immediate 2 false,
    .documented .ror .accumulator 2 false,
    .illegal,
    .documented .jmp .indirect 5 false,
    .documented .adc .absolute 4 false,
    .documented .ror .absolute 6 false,
    .illegal ]

/-- Opcode map row 7x (30_encoding.md R106). -/
def tableRow7 : List Entry :=
  [ .documented .bvs .relative 2 false,
    .documented .adc .indirectY 5 true,
    .illegal,
    .illegal,
    .undocumentedNop .zeroPageX 4 false,
    .documented .adc .zeroPageX 4 false,
    .documented .ror .zeroPageX 6 false,
    .illegal,
    .documented .sei .implicit 2 false,
    .documented .adc .absoluteY 4 true,
    .undocumentedNop .implicit 2 false,
    .illegal,
    .undocumentedNop .absoluteX 4 true,
    .documented .adc .absoluteX 4 true,
    .documented .ror .absoluteX 7 false,
    .illegal ]

/-- Opcode map row 8x (30_encoding.md R106). -/
def tableRow8 : List Entry :=
  [ .undocumentedNop .immediate 2 false,
    .documented .sta .indirectX 6 false,
    .undocumentedNop .immediate 2 false,
    .illegal,
    .documented .sty .zeroPage 3 false,
    .documented .sta .zeroPage 3 false,
    .documented .stx .zeroPage 3 false,
    .illegal,
    .documented .dey .implicit 2 false,
    .undocumentedNop .immediate 2 false,
    .documented .txa .implicit 2 false,
    .illegal,
    .documented .sty .absolute 4 false,
    .documented .sta .absolute 4 false,
    .documented .stx .absolute 4 false,
    .illegal ]

/-- Opcode map row 9x (30_encoding.md R106). -/
def tableRow9 : List Entry :=
  [ .documented .bcc .relative 2 false,
    .documented .sta .indirectY 6 false,
    .illegal,
    .illegal,
    .documented .sty .zeroPageX 4 false,
    .documented .sta .zeroPageX 4 false,
    .documented .stx .zeroPageY 4 false,
    .illegal,
    .documented .tya .implicit 2 false,
    .documented .sta .absoluteY 5 false,
    .documented .txs .implicit 2 false,
    .illegal,
    .illegal,
    .documented .sta .absoluteX 5 false,
    .illegal,
    .illegal ]

/-- Opcode map row Ax (30_encoding.md R106). -/
def tableRowA : List Entry :=
  [ .documented .ldy .immediate 2 false,
    .documented .lda .indirectX 6 false,
    .documented .ldx .immediate 2 false,
    .illegal,
    .documented .ldy .zeroPage 3 false,
    .documented .lda .zeroPage 3 false,
    .documented .ldx .zeroPage 3 false,
    .illegal,
    .documented .tay .implicit 2 false,
    .documented .lda .immediate 2 false,
    .documented .tax .implicit 2 false,
    .illegal,
    .documented .ldy .absolute 4 false,
    .documented .lda .absolute 4 false,
    .documented .ldx .absolute 4 false,
    .illegal ]

/-- Opcode map row Bx (30_encoding.md R106). -/
def tableRowB : List Entry :=
  [ .documented .bcs .relative 2 false,
    .documented .lda .indirectY 5 true,
    .illegal,
    .illegal,
    .documented .ldy .zeroPageX 4 false,
    .documented .lda .zeroPageX 4 false,
    .documented .ldx .zeroPageY 4 false,
    .illegal,
    .documented .clv .implicit 2 false,
    .documented .lda .absoluteY 4 true,
    .documented .tsx .implicit 2 false,
    .illegal,
    .documented .ldy .absoluteX 4 true,
    .documented .lda .absoluteX 4 true,
    .documented .ldx .absoluteY 4 true,
    .illegal ]

/-- Opcode map row Cx (30_encoding.md R106). -/
def tableRowC : List Entry :=
  [ .documented .cpy .immediate 2 false,
    .documented .cmp .indirectX 6 false,
    .undocumentedNop .immediate 2 false,
    .illegal,
    .documented .cpy .zeroPage 3 false,
    .documented .cmp .zeroPage 3 false,
    .documented .dec .zeroPage 5 false,
    .illegal,
    .documented .iny .implicit 2 false,
    .documented .cmp .immediate 2 false,
    .documented .dex .implicit 2 false,
    .illegal,
    .documented .cpy .absolute 4 false,
    .documented .cmp .absolute 4 false,
    .documented .dec .absolute 6 false,
    .illegal ]

/-- Opcode map row Dx (30_encoding.md R106). -/
def tableRowD : List Entry :=
  [ .documented .bne .relative 2 false,
    .documented .cmp .indirectY 5 true,
    .illegal,
    .illegal,
    .undocumentedNop .zeroPageX 4 false,
    .documented .cmp .zeroPageX 4 false,
    .documented .dec .zeroPageX 6 false,
    .illegal,
    .documented .cld .implicit 2 false,
    .documented .cmp .absoluteY 4 true,
    .undocumentedNop .implicit 2 false,
    .illegal,
    .undocumentedNop .absoluteX 4 true,
    .documented .cmp .absoluteX 4 true,
    .documented .dec .absoluteX 7 false,
    .illegal ]

/-- Opcode map row Ex (30_encoding.md R106). -/
def tableRowE : List Entry :=
  [ .documented .cpx .immediate 2 false,
    .documented .sbc .indirectX 6 false,
    .undocumentedNop .immediate 2 false,
    .illegal,
    .documented .cpx .zeroPage 3 false,
    .documented .sbc .zeroPage 3 false,
    .documented .inc .zeroPage 5 false,
    .illegal,
    .documented .inx .implicit 2 false,
    .documented .sbc .immediate 2 false,
    .documented .nop .implicit 2 false,
    .illegal,
    .documented .cpx .absolute 4 false,
    .documented .sbc .absolute 4 false,
    .documented .inc .absolute 6 false,
    .illegal ]

/-- Opcode map row Fx (30_encoding.md R106). -/
def tableRowF : List Entry :=
  [ .documented .beq .relative 2 false,
    .documented .sbc .indirectY 5 true,
    .illegal,
    .illegal,
    .undocumentedNop .zeroPageX 4 false,
    .documented .sbc .zeroPageX 4 false,
    .documented .inc .zeroPageX 6 false,
    .illegal,
    .documented .sed .implicit 2 false,
    .documented .sbc .absoluteY 4 true,
    .undocumentedNop .implicit 2 false,
    .illegal,
    .undocumentedNop .absoluteX 4 true,
    .documented .sbc .absoluteX 4 true,
    .documented .inc .absoluteX 7 false,
    .illegal ]

/-- The Opcode Table: 256 entries (30_encoding.md R104), by the high nibble and then the low nibble of the opcode byte (R106). -/
def opcodeTable : List (List Entry) :=
  [tableRow0, tableRow1, tableRow2, tableRow3, tableRow4, tableRow5, tableRow6, tableRow7,
   tableRow8, tableRow9, tableRowA, tableRowB, tableRowC, tableRowD, tableRowE, tableRowF]

/-- The entry of an opcode byte. Every byte has one (`Sys2Proof.Laws.opcodeTable_full`), so no default is ever taken. -/
def entryAt (op : Byte) : Entry := (opcodeTable.getD (op.toNat / 16) []).getD (op.toNat % 16) .illegal

/-- The class of an opcode byte (30_encoding.md R107). -/
def opcodeClass (op : Byte) : OpcodeClass :=
  match entryAt op with
  | .documented .. => .documented
  | .undocumentedNop .. => .undocumentedNop
  | .illegal => .illegal

/-- The number of operand bytes of a mode (30_encoding.md R101). -/
def Mode.operandBytes : Mode → Nat
  | .implicit | .accumulator => 0
  | .immediate | .zeroPage | .zeroPageX | .zeroPageY | .relative | .indirectX | .indirectY => 1
  | .absolute | .absoluteX | .absoluteY | .indirect => 2

/-- The number of operand bytes after an opcode byte. After an illegal byte none is read (40_step_and_addressing.md R132). -/
def operandCount (op : Byte) : Nat :=
  match entryAt op with
  | .documented _ mode _ _ => mode.operandBytes
  | .undocumentedNop mode _ _ => mode.operandBytes
  | .illegal => 0

/-- The memory operand of a mode, from the operand bytes (30_encoding.md R101, R102). -/
def memOperand (mode : Mode) (b1 b2 : Byte) : Option MemOperand :=
  match mode with
  | .zeroPage => some (.zp b1)
  | .zeroPageX => some (.zpX b1)
  | .zeroPageY => some (.zpY b1)
  | .absolute => some (.abs (word b2 b1))
  | .absoluteX => some (.absX (word b2 b1))
  | .absoluteY => some (.absY (word b2 b1))
  | .indirectX => some (.indX b1)
  | .indirectY => some (.indY b1)
  | .implicit | .accumulator | .immediate | .relative | .indirect => none

/-- The operand of a read instruction (30_encoding.md R101, R102). -/
def readOperand (mode : Mode) (b1 b2 : Byte) : Option ReadOperand :=
  if mode = .immediate then some (.imm b1) else (memOperand mode b1 b2).map .mem

/-- The operand of a shift or rotate (30_encoding.md R101, 44_shift_rotate.md R240). -/
def shiftOperand (mode : Mode) (b1 b2 : Byte) : Option ShiftOperand :=
  if mode = .accumulator then some .acc else (memOperand mode b1 b2).map .mem

/-- The operand of JMP (30_encoding.md R101, 45_control.md R260). -/
def jumpOperand (mode : Mode) (b1 b2 : Byte) : Option JumpOperand :=
  if mode = .absolute then some (.abs (word b2 b1))
  else if mode = .indirect then some (.ind (word b2 b1)) else none

/-- An instruction without operand (Implicit mode). -/
def implied (mode : Mode) (i : Instr) : Option Instr := if mode = .implicit then some i else none

/-- A branch and its offset byte (Relative mode). -/
def relative (mode : Mode) (b1 : Byte) (branch : Byte → Instr) : Option Instr :=
  if mode = .relative then some (branch b1) else none

/-- The documented instruction of a mnemonic and mode; `none` where the mnemonic has no such operand. -/
def documentedInstr (m : Mnemonic) (mode : Mode) (b1 b2 : Byte) : Option Instr :=
  match m with
  | .lda => (readOperand mode b1 b2).map .lda
  | .ldx => (readOperand mode b1 b2).map .ldx
  | .ldy => (readOperand mode b1 b2).map .ldy
  | .sta => (memOperand mode b1 b2).map .sta
  | .stx => (memOperand mode b1 b2).map .stx
  | .sty => (memOperand mode b1 b2).map .sty
  | .tax => implied mode .tax
  | .tay => implied mode .tay
  | .txa => implied mode .txa
  | .tya => implied mode .tya
  | .tsx => implied mode .tsx
  | .txs => implied mode .txs
  | .pha => implied mode .pha
  | .php => implied mode .php
  | .pla => implied mode .pla
  | .plp => implied mode .plp
  | .adc => (readOperand mode b1 b2).map .adc
  | .sbc => (readOperand mode b1 b2).map .sbc
  | .and => (readOperand mode b1 b2).map .and
  | .ora => (readOperand mode b1 b2).map .ora
  | .eor => (readOperand mode b1 b2).map .eor
  | .bit => (memOperand mode b1 b2).map .bit
  | .cmp => (readOperand mode b1 b2).map .cmp
  | .cpx => (readOperand mode b1 b2).map .cpx
  | .cpy => (readOperand mode b1 b2).map .cpy
  | .inc => (memOperand mode b1 b2).map .inc
  | .dec => (memOperand mode b1 b2).map .dec
  | .inx => implied mode .inx
  | .iny => implied mode .iny
  | .dex => implied mode .dex
  | .dey => implied mode .dey
  | .asl => (shiftOperand mode b1 b2).map .asl
  | .lsr => (shiftOperand mode b1 b2).map .lsr
  | .rol => (shiftOperand mode b1 b2).map .rol
  | .ror => (shiftOperand mode b1 b2).map .ror
  | .bpl => relative mode b1 .bpl
  | .bmi => relative mode b1 .bmi
  | .bvc => relative mode b1 .bvc
  | .bvs => relative mode b1 .bvs
  | .bcc => relative mode b1 .bcc
  | .bcs => relative mode b1 .bcs
  | .bne => relative mode b1 .bne
  | .beq => relative mode b1 .beq
  | .jmp => (jumpOperand mode b1 b2).map .jmp
  | .jsr => if mode = .absolute then some (.jsr (word b2 b1)) else none
  | .rts => implied mode .rts
  | .brk => implied mode .brk
  | .rti => implied mode .rti
  | .clc => implied mode .clc
  | .sec => implied mode .sec
  | .cli => implied mode .cli
  | .sei => implied mode .sei
  | .cld => implied mode .cld
  | .sed => implied mode .sed
  | .clv => implied mode .clv
  | .nop => implied mode .nop

/-- The undocumented NOP of an opcode byte and mode (30_encoding.md R108); `none` where no such byte has the mode. -/
def undocumentedInstr (mode : Mode) (op b1 b2 : Byte) : Option Instr :=
  match mode with
  | .implicit => some (.nopImp op)
  | .immediate => some (.nopImm op b1)
  | .zeroPage => some (.nopZp op b1)
  | .zeroPageX => some (.nopZpX op b1)
  | .absolute => some (.nopAbs (word b2 b1))
  | .absoluteX => some (.nopAbsX op (word b2 b1))
  | .accumulator | .zeroPageY | .relative | .absoluteY | .indirectX | .indirectY | .indirect => none

/-- The instruction of an opcode byte and its operand bytes (operand bytes the mode lacks are not used). A table row
whose mnemonic lacks its mode would be read as illegal; the table has no such row (notes/assumptions/13.md). -/
def instrOf (op b1 b2 : Byte) : Instr :=
  match entryAt op with
  | .documented m mode _ _ => (documentedInstr m mode b1 b2).getD (.illegal op)
  | .undocumentedNop mode _ _ => (undocumentedInstr mode op b1 b2).getD (.illegal op)
  | .illegal => .illegal op

/-- Why a list of bytes holds no whole instruction. -/
inductive DecodeError where
  /-- The list is empty. Raised by `decode`; the step never decodes an empty list. Safe. -/
  | noOpcode
  /-- The opcode's operand bytes are cut off. Raised by `decode`; the step always has them. Safe. -/
  | truncated (op : Byte)
deriving DecidableEq, Repr

/-- The first instruction of a list of bytes and the bytes after it (30_encoding.md R100, R101). -/
def decode : List Byte → Except DecodeError (Instr × List Byte)
  | [] => .error .noOpcode
  | op :: rest =>
    match operandCount op, rest with
    | 0, rest => .ok (instrOf op 0 0, rest)
    | 1, b1 :: rest => .ok (instrOf op b1 0, rest)
    | 2, b1 :: b2 :: rest => .ok (instrOf op b1 b2, rest)
    | _, _ => .error (.truncated op)

/-- The bytes, lowest address first, of an instruction whose opcode-table bits are `w`: bit 0 is bit 0 of the opcode
byte, bits 15..8 the second byte, bits 23..16 the third; the bits above `nbits` are 0. -/
def tableBytes (nbits w : Nat) : List Byte :=
  let v := w % 2 ^ nbits
  [BitVec.ofNat 8 v, BitVec.ofNat 8 (v / 256), BitVec.ofNat 8 (v / 65536)]

/-- The instruction the decoder reads from an opcode-table word. -/
def decodeTableWord (nbits w : Nat) : Option Instr :=
  match decode (tableBytes nbits w) with
  | .ok (i, _) => some i
  | .error _ => none

/-! ### The encoder -/

/-- The opcode bytes of LDA (41_load_store_transfer.md R160, **Encoding**). -/
def ldaOpcode : ReadOperand → Option Byte
  | .imm _ => some 0xA9
  | .mem (.zp _) => some 0xA5
  | .mem (.zpX _) => some 0xB5
  | .mem (.abs _) => some 0xAD
  | .mem (.absX _) => some 0xBD
  | .mem (.absY _) => some 0xB9
  | .mem (.indX _) => some 0xA1
  | .mem (.indY _) => some 0xB1
  | .mem (.zpY _) => none

/-- The opcode bytes of LDX (41_load_store_transfer.md R161, **Encoding**). -/
def ldxOpcode : ReadOperand → Option Byte
  | .imm _ => some 0xA2
  | .mem (.zp _) => some 0xA6
  | .mem (.zpY _) => some 0xB6
  | .mem (.abs _) => some 0xAE
  | .mem (.absY _) => some 0xBE
  | .mem (.zpX _) | .mem (.absX _) | .mem (.indX _) | .mem (.indY _) => none

/-- The opcode bytes of LDY (41_load_store_transfer.md R162, **Encoding**). -/
def ldyOpcode : ReadOperand → Option Byte
  | .imm _ => some 0xA0
  | .mem (.zp _) => some 0xA4
  | .mem (.zpX _) => some 0xB4
  | .mem (.abs _) => some 0xAC
  | .mem (.absX _) => some 0xBC
  | .mem (.zpY _) | .mem (.absY _) | .mem (.indX _) | .mem (.indY _) => none

/-- The opcode bytes of ADC (43_arith_logic.md R205, **Encoding**). -/
def adcOpcode : ReadOperand → Option Byte
  | .imm _ => some 0x69
  | .mem (.zp _) => some 0x65
  | .mem (.zpX _) => some 0x75
  | .mem (.abs _) => some 0x6D
  | .mem (.absX _) => some 0x7D
  | .mem (.absY _) => some 0x79
  | .mem (.indX _) => some 0x61
  | .mem (.indY _) => some 0x71
  | .mem (.zpY _) => none

/-- The opcode bytes of SBC (43_arith_logic.md R206, **Encoding**). -/
def sbcOpcode : ReadOperand → Option Byte
  | .imm _ => some 0xE9
  | .mem (.zp _) => some 0xE5
  | .mem (.zpX _) => some 0xF5
  | .mem (.abs _) => some 0xED
  | .mem (.absX _) => some 0xFD
  | .mem (.absY _) => some 0xF9
  | .mem (.indX _) => some 0xE1
  | .mem (.indY _) => some 0xF1
  | .mem (.zpY _) => none

/-- The opcode bytes of AND (43_arith_logic.md R207, **Encoding**). -/
def andOpcode : ReadOperand → Option Byte
  | .imm _ => some 0x29
  | .mem (.zp _) => some 0x25
  | .mem (.zpX _) => some 0x35
  | .mem (.abs _) => some 0x2D
  | .mem (.absX _) => some 0x3D
  | .mem (.absY _) => some 0x39
  | .mem (.indX _) => some 0x21
  | .mem (.indY _) => some 0x31
  | .mem (.zpY _) => none

/-- The opcode bytes of ORA (43_arith_logic.md R208, **Encoding**). -/
def oraOpcode : ReadOperand → Option Byte
  | .imm _ => some 0x09
  | .mem (.zp _) => some 0x05
  | .mem (.zpX _) => some 0x15
  | .mem (.abs _) => some 0x0D
  | .mem (.absX _) => some 0x1D
  | .mem (.absY _) => some 0x19
  | .mem (.indX _) => some 0x01
  | .mem (.indY _) => some 0x11
  | .mem (.zpY _) => none

/-- The opcode bytes of EOR (43_arith_logic.md R209, **Encoding**). -/
def eorOpcode : ReadOperand → Option Byte
  | .imm _ => some 0x49
  | .mem (.zp _) => some 0x45
  | .mem (.zpX _) => some 0x55
  | .mem (.abs _) => some 0x4D
  | .mem (.absX _) => some 0x5D
  | .mem (.absY _) => some 0x59
  | .mem (.indX _) => some 0x41
  | .mem (.indY _) => some 0x51
  | .mem (.zpY _) => none

/-- The opcode bytes of CMP (43_arith_logic.md R211, **Encoding**). -/
def cmpOpcode : ReadOperand → Option Byte
  | .imm _ => some 0xC9
  | .mem (.zp _) => some 0xC5
  | .mem (.zpX _) => some 0xD5
  | .mem (.abs _) => some 0xCD
  | .mem (.absX _) => some 0xDD
  | .mem (.absY _) => some 0xD9
  | .mem (.indX _) => some 0xC1
  | .mem (.indY _) => some 0xD1
  | .mem (.zpY _) => none

/-- The opcode bytes of CPX (43_arith_logic.md R212, **Encoding**). -/
def cpxOpcode : ReadOperand → Option Byte
  | .imm _ => some 0xE0
  | .mem (.zp _) => some 0xE4
  | .mem (.abs _) => some 0xEC
  | .mem (.zpX _) | .mem (.zpY _) | .mem (.absX _) | .mem (.absY _) | .mem (.indX _) | .mem (.indY _) => none

/-- The opcode bytes of CPY (43_arith_logic.md R213, **Encoding**). -/
def cpyOpcode : ReadOperand → Option Byte
  | .imm _ => some 0xC0
  | .mem (.zp _) => some 0xC4
  | .mem (.abs _) => some 0xCC
  | .mem (.zpX _) | .mem (.zpY _) | .mem (.absX _) | .mem (.absY _) | .mem (.indX _) | .mem (.indY _) => none

/-- The opcode bytes of STA (41_load_store_transfer.md R163, **Encoding**). -/
def staOpcode : MemOperand → Option Byte
  | .zp _ => some 0x85
  | .zpX _ => some 0x95
  | .abs _ => some 0x8D
  | .absX _ => some 0x9D
  | .absY _ => some 0x99
  | .indX _ => some 0x81
  | .indY _ => some 0x91
  | .zpY _ => none

/-- The opcode bytes of STX (41_load_store_transfer.md R164, **Encoding**). -/
def stxOpcode : MemOperand → Option Byte
  | .zp _ => some 0x86
  | .zpY _ => some 0x96
  | .abs _ => some 0x8E
  | .zpX _ | .absX _ | .absY _ | .indX _ | .indY _ => none

/-- The opcode bytes of STY (41_load_store_transfer.md R165, **Encoding**). -/
def styOpcode : MemOperand → Option Byte
  | .zp _ => some 0x84
  | .zpX _ => some 0x94
  | .abs _ => some 0x8C
  | .zpY _ | .absX _ | .absY _ | .indX _ | .indY _ => none

/-- The opcode bytes of BIT (43_arith_logic.md R210, **Encoding**). -/
def bitOpcode : MemOperand → Option Byte
  | .zp _ => some 0x24
  | .abs _ => some 0x2C
  | .zpX _ | .zpY _ | .absX _ | .absY _ | .indX _ | .indY _ => none

/-- The opcode bytes of INC (43_arith_logic.md R214, **Encoding**). -/
def incOpcode : MemOperand → Option Byte
  | .zp _ => some 0xE6
  | .zpX _ => some 0xF6
  | .abs _ => some 0xEE
  | .absX _ => some 0xFE
  | .zpY _ | .absY _ | .indX _ | .indY _ => none

/-- The opcode bytes of DEC (43_arith_logic.md R215, **Encoding**). -/
def decOpcode : MemOperand → Option Byte
  | .zp _ => some 0xC6
  | .zpX _ => some 0xD6
  | .abs _ => some 0xCE
  | .absX _ => some 0xDE
  | .zpY _ | .absY _ | .indX _ | .indY _ => none

/-- The opcode bytes of ASL (44_shift_rotate.md R241, **Encoding**). -/
def aslOpcode : ShiftOperand → Option Byte
  | .acc => some 0x0A
  | .mem (.zp _) => some 0x06
  | .mem (.zpX _) => some 0x16
  | .mem (.abs _) => some 0x0E
  | .mem (.absX _) => some 0x1E
  | .mem (.zpY _) | .mem (.absY _) | .mem (.indX _) | .mem (.indY _) => none

/-- The opcode bytes of LSR (44_shift_rotate.md R242, **Encoding**). -/
def lsrOpcode : ShiftOperand → Option Byte
  | .acc => some 0x4A
  | .mem (.zp _) => some 0x46
  | .mem (.zpX _) => some 0x56
  | .mem (.abs _) => some 0x4E
  | .mem (.absX _) => some 0x5E
  | .mem (.zpY _) | .mem (.absY _) | .mem (.indX _) | .mem (.indY _) => none

/-- The opcode bytes of ROL (44_shift_rotate.md R243, **Encoding**). -/
def rolOpcode : ShiftOperand → Option Byte
  | .acc => some 0x2A
  | .mem (.zp _) => some 0x26
  | .mem (.zpX _) => some 0x36
  | .mem (.abs _) => some 0x2E
  | .mem (.absX _) => some 0x3E
  | .mem (.zpY _) | .mem (.absY _) | .mem (.indX _) | .mem (.indY _) => none

/-- The opcode bytes of ROR (44_shift_rotate.md R244, **Encoding**). -/
def rorOpcode : ShiftOperand → Option Byte
  | .acc => some 0x6A
  | .mem (.zp _) => some 0x66
  | .mem (.zpX _) => some 0x76
  | .mem (.abs _) => some 0x6E
  | .mem (.absX _) => some 0x7E
  | .mem (.zpY _) | .mem (.absY _) | .mem (.indX _) | .mem (.indY _) => none

/-- The opcode bytes of JMP (45_control.md R260, **Encoding**). -/
def jmpOpcode : JumpOperand → Option Byte
  | .abs _ => some 0x4C
  | .ind _ => some 0x6C

/-- The opcode byte of an instruction, from the **Encoding** part of its own rule (files 41 to 46), not from the map
of R106; `none` where it has no encoding. -/
def opcode : Instr → Option Byte
  | .lda o => ldaOpcode o
  | .ldx o => ldxOpcode o
  | .ldy o => ldyOpcode o
  | .adc o => adcOpcode o
  | .sbc o => sbcOpcode o
  | .and o => andOpcode o
  | .ora o => oraOpcode o
  | .eor o => eorOpcode o
  | .cmp o => cmpOpcode o
  | .cpx o => cpxOpcode o
  | .cpy o => cpyOpcode o
  | .sta m => staOpcode m
  | .stx m => stxOpcode m
  | .sty m => styOpcode m
  | .bit m => bitOpcode m
  | .inc m => incOpcode m
  | .dec m => decOpcode m
  | .asl o => aslOpcode o
  | .lsr o => lsrOpcode o
  | .rol o => rolOpcode o
  | .ror o => rorOpcode o
  | .bpl _ => some 0x10
  | .bmi _ => some 0x30
  | .bvc _ => some 0x50
  | .bvs _ => some 0x70
  | .bcc _ => some 0x90
  | .bcs _ => some 0xB0
  | .bne _ => some 0xD0
  | .beq _ => some 0xF0
  | .jmp t => jmpOpcode t
  | .jsr _ => some 0x20
  | .tax => some 0xAA
  | .tay => some 0xA8
  | .txa => some 0x8A
  | .tya => some 0x98
  | .tsx => some 0xBA
  | .txs => some 0x9A
  | .pha => some 0x48
  | .php => some 0x08
  | .pla => some 0x68
  | .plp => some 0x28
  | .inx => some 0xE8
  | .iny => some 0xC8
  | .dex => some 0xCA
  | .dey => some 0x88
  | .rts => some 0x60
  | .brk => some 0x00
  | .rti => some 0x40
  | .clc => some 0x18
  | .sec => some 0x38
  | .cli => some 0x58
  | .sei => some 0x78
  | .cld => some 0xD8
  | .sed => some 0xF8
  | .clv => some 0xB8
  | .nop => some 0xEA
  | .nopImp op => if nopImpBytes.contains op then some op else none
  | .nopImm op _ => if nopImmBytes.contains op then some op else none
  | .nopZp op _ => if nopZpBytes.contains op then some op else none
  | .nopZpX op _ => if nopZpXBytes.contains op then some op else none
  | .nopAbs _ => some 0x0C
  | .nopAbsX op _ => if nopAbsXBytes.contains op then some op else none
  | .illegal op => if illegalBytes.contains op then some op else none

/-- The operand bytes of a memory operand (30_encoding.md R101: 16-bit operands low byte first). -/
def MemOperand.bytes : MemOperand → List Byte
  | .zp z | .zpX z | .zpY z | .indX z | .indY z => [z]
  | .abs w | .absX w | .absY w => [lo8 w, hi8 w]

/-- The operand bytes of a read operand. -/
def ReadOperand.bytes : ReadOperand → List Byte
  | .imm v => [v]
  | .mem m => m.bytes

/-- The operand bytes of a shift operand. -/
def ShiftOperand.bytes : ShiftOperand → List Byte
  | .acc => []
  | .mem m => m.bytes

/-- The operand bytes of JMP. -/
def JumpOperand.bytes : JumpOperand → List Byte
  | .abs w | .ind w => [lo8 w, hi8 w]

/-- The operand bytes of an instruction. -/
def operandBytes : Instr → List Byte
  | .lda o | .ldx o | .ldy o | .adc o | .sbc o | .and o | .ora o | .eor o | .cmp o | .cpx o | .cpy o => o.bytes
  | .sta m | .stx m | .sty m | .bit m | .inc m | .dec m => m.bytes
  | .asl o | .lsr o | .rol o | .ror o => o.bytes
  | .bpl off | .bmi off | .bvc off | .bvs off | .bcc off | .bcs off | .bne off | .beq off => [off]
  | .jmp t => t.bytes
  | .jsr w => [lo8 w, hi8 w]
  | .tax | .tay | .txa | .tya | .tsx | .txs | .pha | .php | .pla | .plp | .inx | .iny | .dex | .dey
  | .rts | .brk | .rti | .clc | .sec | .cli | .sei | .cld | .sed | .clv | .nop => []
  | .nopImp _ | .illegal _ => []
  | .nopImm _ v => [v]
  | .nopZp _ z | .nopZpX _ z => [z]
  | .nopAbs w | .nopAbsX _ w => [lo8 w, hi8 w]

/-- The bytes of an instruction: its opcode byte and its operand bytes; none at all where it has no encoding. -/
def encode (i : Instr) : List Byte :=
  match opcode i with
  | some op => op :: operandBytes i
  | none => []

/-- The number of bytes of an instruction (30_encoding.md R100). -/
def instrLength (i : Instr) : Nat := 1 + (operandBytes i).length

end Sys2Proof
end

