-- ==== Sys2Proof/Config.lean ====
section
/-! DEFINITION. The implementation parameters of 00_scope.md R8. None is fixed by a definition the machine
reads: `Config` travels in the state, `ResetParams` is an argument of construction, and the program-storage
length comes with the cartridge. Their defaults are used by `State.reset` alone. -/

namespace Sys2Proof

/-- The two policy parameters a step depends on (00_scope.md R8; 92_eei_decisions.md D2, D3).
They are fixed for a machine: no step writes them. -/
structure Config where
  /-- DECIMAL_MODE: with `true`, ADC and SBC are decimal while P.D = 1 (43_arith_logic.md R205, R206). -/
  decimalMode : Bool
  /-- UNDOC_NOP_EXEC: with `false`, the 27 undocumented NOPs raise IllegalOpcode (30_encoding.md R108). -/
  undocNopExec : Bool
deriving DecidableEq, Repr

/-- The spec's defaults (00_scope.md R8). DESIGN CHOICE for `State.reset` only: notes/assumptions/1.md. -/
def Config.default : Config := { decimalMode := false, undocNopExec := true }

/-- What construction takes as arguments because the source gives no value: RESET_SP, RESET_A, RESET_X,
RESET_Y, RESET_NVDZC and RAM_INIT (00_scope.md R8, 10_state.md R52). `ramInit` is in the form of
Machine/Memory.lean: index and byte, index rising, 0x00 left out. -/
structure ResetParams where
  sp : Byte
  a : Byte
  x : Byte
  y : Byte
  n : Bool
  v : Bool
  d : Bool
  z : Bool
  c : Bool
  ramInit : List Host.Cell
deriving DecidableEq, Repr

/-- The deterministic defaults of 10_state.md R52. DESIGN CHOICE: notes/assumptions/2.md to 5.md. -/
def ResetParams.default : ResetParams :=
  { sp := 0xFD, a := 0, x := 0, y := 0,
    n := false, v := false, d := false, z := false, c := false, ramInit := [] }

end Sys2Proof
end

