-- ==== Sys2Proof/Machine/Memory.lean ====
section
/-! DEFINITION. Byte storage: a list of (index, byte) cells in one canonical form. Indexes rise strictly and no cell
holds 0x00, which is what an unlisted index reads as. Work RAM, PRG and CHR are held this way (10_state.md R47, R48).
For RAM the unlisted 0x00 is the default of the spec's parameter RAM_INIT (DESIGN CHOICE: notes/assumptions/5.md);
for PRG and CHR every byte is given by the cartridge image and 0x00 bytes are simply not listed. -/

namespace Sys2Proof.Machine

/-- Byte storage as plain data. -/
abbrev Memory := List Host.Cell

/-- What an unlisted index reads as. -/
def unlistedByte : Byte := 0x00

/-- The byte at an index. -/
def Memory.read : Memory → Nat → Byte
  | [], _ => unlistedByte
  | (a, v) :: rest, k => if a = k then v else Memory.read rest k

/-- The storage without any cell of an index. -/
def Memory.erase : Memory → Nat → Memory
  | [], _ => []
  | (a, v) :: rest, k => if a = k then Memory.erase rest k else (a, v) :: Memory.erase rest k

/-- The storage with a cell put in at its place in the rising order. -/
def Memory.insert : Memory → Nat → Byte → Memory
  | [], k, v => [(k, v)]
  | (a, w) :: rest, k, v => if k < a then (k, v) :: (a, w) :: rest else (a, w) :: Memory.insert rest k v

/-- The storage with the byte at an index replaced. Writing what an unlisted index reads as removes the cell. -/
def Memory.write (m : Memory) (k : Nat) (v : Byte) : Memory :=
  if v = unlistedByte then m.erase k else (m.erase k).insert k v

/-- From index `lo` on, indexes rise strictly, stay below `size`, and no cell holds the unlisted byte. -/
def Memory.wfFrom (size : Nat) : Nat → Memory → Bool
  | _, [] => true
  | lo, (a, v) :: rest => decide (lo ≤ a) && decide (a < size) && v != unlistedByte && Memory.wfFrom size (a + 1) rest

/-- The canonical form of a storage of `size` bytes: equal contents are equal lists. -/
def Memory.wf (size : Nat) (m : Memory) : Bool := Memory.wfFrom size 0 m

/-- The storage that holds a list of bytes from index `base` on. -/
def Memory.ofBytes : Nat → List Byte → Memory
  | _, [] => []
  | base, b :: bs => if b = unlistedByte then Memory.ofBytes (base + 1) bs else (base, b) :: Memory.ofBytes (base + 1) bs

end Sys2Proof.Machine
end

