-- ==== Sys2Proof/Machine/Cartridge.lean ====
section
/-! DEFINITION. The Cartridge (10_state.md R48) and its load from a container image (70_reset_and_hazards.md R350 to R352). -/

namespace Sys2Proof.Machine

/-- The mirroring mode, parsed and kept, read by no rule of this block (70_reset_and_hazards.md R354). -/
inductive Mirroring where
  | horizontal | vertical
deriving DecidableEq, Repr

/-- The Cartridge, immutable after its load: no step writes any of it (10_state.md R48). -/
structure Cartridge where
  /-- Program-bank count, 1..255 (70_reset_and_hazards.md R350, R352). -/
  prgBanks : Nat
  /-- `PRG[0..PRG_LEN-1]`. -/
  prg : Memory
  /-- Character-bank count, 0..255. -/
  chrBanks : Nat
  /-- `CHR`, opaque to the core and at no CPU address (20_memory.md R78). -/
  chr : Memory
  /-- The mapper identifier, parsed and kept, read by no rule of this block (70_reset_and_hazards.md R354). -/
  mapper : Byte
  /-- The mirroring mode. -/
  mirroring : Mirroring
deriving DecidableEq, Repr

/-- The program-storage bank size (00_scope.md R8). -/
def prgBankSize : Nat := 16384

/-- The character-storage bank size (00_scope.md R8, 92_eei_decisions.md D15). -/
def chrBankSize : Nat := 8192

/-- `PRG_LEN = prg_banks * 16384` (10_state.md R48). -/
def Cartridge.prgLen (c : Cartridge) : Nat := c.prgBanks * prgBankSize

/-- The number of character-storage bytes. -/
def Cartridge.chrLen (c : Cartridge) : Nat := c.chrBanks * chrBankSize

/-- A cartridge as a load leaves it: 1..255 program banks, at most 255 character banks, both storages in canonical form. -/
def Cartridge.wf (c : Cartridge) : Bool :=
  decide (1 ≤ c.prgBanks) && decide (c.prgBanks ≤ 255) && decide (c.chrBanks ≤ 255) &&
  c.prg.wf c.prgLen && c.chr.wf c.chrLen

/-- One bank of 0x00 bytes. DESIGN CHOICE for `State.reset`, which needs some cartridge: notes/assumptions/6.md. -/
def Cartridge.blank : Cartridge :=
  { prgBanks := 1, prg := [], chrBanks := 0, chr := [], mapper := 0, mirroring := .horizontal }

/-- The error of a rejected load. The spec gives it a name and no parts (00_scope.md R14, 70_reset_and_hazards.md R352). -/
inductive FormatError where
  /-- Raised by `Cartridge.load` alone, before any machine exists. Safe: no machine runs. -/
  | formatError
deriving DecidableEq, Repr

/-- The magic signature "NES" 0x1A (70_reset_and_hazards.md R350). -/
def magicBytes : List Byte := [0x4E, 0x45, 0x53, 0x1A]

/-- The header's length (70_reset_and_hazards.md R350). -/
def headerLength : Nat := 16

/-- The trainer's length, 512 if byte 6 bit 2 is set, else 0 (70_reset_and_hazards.md R351). -/
def trainerLength (flags6 : Byte) : Nat := if flags6.getLsbD 2 then 512 else 0

/-- The mapper identifier `(byte7 & 0xF0) | (byte6 >> 4)` (70_reset_and_hazards.md R350). -/
def mapperOf (flags6 flags7 : Byte) : Byte := (flags7 &&& 0xF0) ||| (flags6 >>> 4)

/-- The mirroring mode: byte 6 bit 0, 0 horizontal, 1 vertical (70_reset_and_hazards.md R350). -/
def mirroringOf (flags6 : Byte) : Mirroring := if flags6.getLsbD 0 then .vertical else .horizontal

/-- The `n` bytes of an image from offset `start` on. -/
def slice (bytes : List Byte) (start n : Nat) : List Byte := (bytes.drop start).take n

/-- `Cartridge.load(bytes)`: FormatError on any of the causes of R352, else the Cartridge of R350 and R351. -/
def Cartridge.load (bytes : List Byte) : Except FormatError Cartridge :=
  let prgBanks := (bytes.getD 4 0).toNat
  let chrBanks := (bytes.getD 5 0).toNat
  let flags6 := bytes.getD 6 0
  let flags7 := bytes.getD 7 0
  let start := headerLength + trainerLength flags6
  let prgLen := prgBanks * prgBankSize
  let chrLen := chrBanks * chrBankSize
  if bytes.length < headerLength then .error .formatError
  else if slice bytes 0 4 ≠ magicBytes then .error .formatError
  else if prgBanks = 0 then .error .formatError
  else if bytes.length < start + prgLen + chrLen then .error .formatError
  else .ok
    { prgBanks := prgBanks
      prg := Memory.ofBytes 0 (slice bytes start prgLen)
      chrBanks := chrBanks
      chr := Memory.ofBytes 0 (slice bytes (start + prgLen) chrLen)
      mapper := mapperOf flags6 flags7
      mirroring := mirroringOf flags6 }

end Sys2Proof.Machine
end

