-- ==== Sys2Proof/Machine/Bus.lean ====
section
/-! DEFINITION. The Bus: address decoding over work RAM and the cartridge (20_memory.md R60 to R69). Decoding depends
on the address alone (R61). -/

namespace Sys2Proof.Machine

/-- The work RAM size (00_scope.md R8). -/
def ramSize : Nat := 2048

/-- The RAM byte an address of the RAM window names: `a & 0x07FF` (20_memory.md R64). -/
def ramIndex (a : Addr) : Nat := (a &&& 0x07FF).toNat

/-- The PRG byte an address of the cartridge window names: `(a - 0x8000) mod PRG_LEN` (20_memory.md R66). -/
def prgIndex (cart : Cartridge) (a : Addr) : Nat := (a.toNat - 0x8000) % cart.prgLen

/-- The RAM mirror region, 0x0000-0x1FFF (20_memory.md R61). -/
def isRam (a : Addr) : Bool := decide (a.toNat ≤ 0x1FFF)

/-- The cartridge program-storage region, 0x8000-0xFFFF (20_memory.md R61). -/
def isCartridge (a : Addr) : Bool := decide (0x8000 ≤ a.toNat)

/-- What the unmapped region 0x2000-0x7FFF reads as (20_memory.md R67). -/
def unmappedByte : Byte := 0x00

/-- Two addresses name the same RAM byte: both lie in the RAM window and agree in their low 11 bits (20_memory.md R64). -/
def sameRamByte (u w : Addr) : Bool := isRam u && isRam w && ramIndex u == ramIndex w

/-- `Bus.read(a)` (20_memory.md R62). It has no state to change (R76). -/
def busRead (ram : Memory) (cart : Cartridge) (a : Addr) : Byte :=
  if isRam a then ram.read (ramIndex a)
  else if isCartridge a then cart.prg.read (prgIndex cart a)
  else unmappedByte

/-- `Bus.write(a, v)`: the RAM after it. A write outside the RAM window has no effect (20_memory.md R63, R67, R68). -/
def busWrite (ram : Memory) (a : Addr) (v : Byte) : Memory :=
  if isRam a then ram.write (ramIndex a) v else ram

/-- The reset vector's address (00_scope.md R8). -/
def resetVector : Addr := 0xFFFC

/-- The BRK vector's address (00_scope.md R8). -/
def brkVector : Addr := 0xFFFE

/-- The program counter at reset: the two bytes at 0xFFFC and 0xFFFD, low byte first, through the Bus
(70_reset_and_hazards.md R340). -/
def resetPc (ram : Memory) (cart : Cartridge) : Addr :=
  word (busRead ram cart (resetVector + 1)) (busRead ram cart resetVector)

end Sys2Proof.Machine
end

