-- ==== Sys2Proof/Machine/State.lean ====
section
/-! DEFINITION. The machine's state (10_state.md), why a step stops, and the state after reset (70_reset_and_hazards.md R340). -/

namespace Sys2Proof.Machine

/-- The stored bits of the status register P (10_state.md R36). Bits 4 (B) and 5 (U) are not storage (R37), so they
have no field: `Status.toByte` gives their read values (notes/assumptions/10.md). -/
structure Status where
  /-- Negative, bit 7. -/
  n : Bool
  /-- Overflow, bit 6. -/
  v : Bool
  /-- Decimal, bit 3. -/
  d : Bool
  /-- Interrupt-disable, bit 2. -/
  i : Bool
  /-- Zero, bit 1. -/
  z : Bool
  /-- Carry, bit 0. -/
  c : Bool
deriving DecidableEq, Repr

/-- What an IllegalOpcode records: the fetched byte and the address it was fetched from (10_state.md R50, 60_exceptions.md R300). -/
structure FaultRecord where
  op : Byte
  addr : Addr
deriving DecidableEq, Repr

/-- Everything the spec gives the machine (10_state.md R30, R47, R48, R50; the parameters of 00_scope.md R8 a step depends on). -/
structure State where
  /-- The accumulator (R31). -/
  a : Byte
  /-- Index register X (R32). -/
  x : Byte
  /-- Index register Y (R33). -/
  y : Byte
  /-- The stack pointer, an offset into page 1 (R34). -/
  sp : Byte
  /-- The program counter (R35). -/
  pc : Addr
  /-- The status register (R36). -/
  p : Status
  /-- Work RAM, indexes 0..2047 (R47). -/
  ram : Memory
  /-- The Cartridge the Bus holds for its full lifetime (R47, R48). -/
  cart : Cartridge
  /-- The fault record, none until an IllegalOpcode and never cleared (R50). -/
  fault : Option FaultRecord
  /-- The policy parameters of this machine, written by no step (00_scope.md R8). -/
  cfg : Config
deriving DecidableEq, Repr

/-- Why the machine stops. -/
inductive Fault where
  /-- Raised by `step` on a state whose fault record is set, with what the record holds: such a state has no further
  step (60_exceptions.md R302). No instruction's meaning raises it. Safe: the hardware's host must not step on either. -/
  | illegalOpcode (op : Byte) (addr : Addr)
deriving DecidableEq, Repr

/-- Why an instruction has no meaning. -/
inductive Refusal where
  /-- Raised by an arm of `exec` whose instruction has no meaning yet. No arm does. Safe. -/
  | notModelled (mnemonic : String)
deriving DecidableEq, Repr

/-- Construction of the Bus and the Processor over a loaded Cartridge (70_reset_and_hazards.md R340, R341;
10_state.md R52). P.I is 1 whatever the parameters say. -/
def State.construct (cfg : Config) (r : ResetParams) (cart : Cartridge) : State :=
  { a := r.a, x := r.x, y := r.y, sp := r.sp
    pc := resetPc r.ramInit cart
    p := { n := r.n, v := r.v, d := r.d, i := true, z := r.z, c := r.c }
    ram := r.ramInit
    cart := cart
    fault := none
    cfg := cfg }

/-- The machine right after reset: the spec's default parameters (DESIGN CHOICE: notes/assumptions/1.md to 5.md) over
a blank cartridge (DESIGN CHOICE: notes/assumptions/6.md). -/
def State.reset : State := State.construct Config.default ResetParams.default Cartridge.blank

end Sys2Proof.Machine
end

