-- ==== Sys2Proof/Machine/Flags.lean ====
section
/-! DEFINITION. The status byte and every flag computation of the spec: setNZ (00_scope.md R13), the byte of P
(10_state.md R36, R37), binary and decimal addition and subtraction, comparison (43_arith_logic.md R200 to R203), the
shifts and rotates (44_shift_rotate.md R241 to R244). -/

namespace Sys2Proof.Machine

/-- `mask` if the bit is set, else 0. -/
def bitIf (b : Bool) (mask : Byte) : Byte := if b then mask else 0

/-- A read of P: the stored bits at their places, U = 1 and B = 0 (10_state.md R36, R37). -/
def Status.toByte (p : Status) : Byte :=
  bitIf p.n 0x80 ||| bitIf p.v 0x40 ||| 0x20 ||| bitIf p.d 0x08 ||| bitIf p.i 0x04 ||| bitIf p.z 0x02 ||| bitIf p.c 0x01

/-- The copy of P that PHP and BRK push, `P | 0x30` (10_state.md R37, 42_stack.md R191, 45_control.md R263). -/
def Status.pushed (p : Status) : Byte := p.toByte ||| 0x30

/-- P after a byte is pulled into it: bits 5 and 4 of the byte are discarded (10_state.md R37, 42_stack.md R193). -/
def Status.ofPulled (t : Byte) : Status :=
  { n := t.getLsbD 7, v := t.getLsbD 6, d := t.getLsbD 3, i := t.getLsbD 2, z := t.getLsbD 1, c := t.getLsbD 0 }

/-- `setNZ(v)`: Z from v = 0, N from v[7] (00_scope.md R13). -/
def Status.withNZ (p : Status) (v : Byte) : Status := { p with n := v.getLsbD 7, z := v == 0 }

/-- A result byte and the four flags an addition, a subtraction or a comparison gives. -/
structure AluResult where
  result : Byte
  n : Bool
  v : Bool
  z : Bool
  c : Bool
deriving DecidableEq, Repr

/-- P with N, V, Z and C of an arithmetic result. -/
def Status.withNVZC (p : Status) (o : AluResult) : Status := { p with n := o.n, v := o.v, z := o.z, c := o.c }

/-- `AddBinary(m)` on an accumulator and a carry in (43_arith_logic.md R200). -/
def addBinary (a m : Byte) (carry : Bool) : AluResult :=
  let t := a.toNat + m.toNat + carry.toNat
  let r := BitVec.ofNat 8 t
  { result := r
    n := r.getLsbD 7
    v := (a ^^^ r) &&& (m ^^^ r) &&& 0x80 != 0
    z := r == 0
    c := decide (t > 0xFF) }

/-- `AddDecimal(m)` on an accumulator and a carry in, the NMOS algorithm (43_arith_logic.md R201). -/
def addDecimal (a m : Byte) (carry : Bool) : AluResult :=
  let bin := BitVec.ofNat 8 (a.toNat + m.toNat + carry.toNat)
  let lo0 := (a &&& 0x0F).toNat + (m &&& 0x0F).toNat + carry.toNat
  let lo := if lo0 ≥ 0x0A then (lo0 + 0x06) % 16 + 0x10 else lo0
  let t0 := (a &&& 0xF0).toNat + (m &&& 0xF0).toNat + lo
  let s := signed8 (a &&& 0xF0) + signed8 (m &&& 0xF0) + (lo : Int)
  let t := if t0 ≥ 0xA0 then t0 + 0x60 else t0
  { result := BitVec.ofNat 8 t
    n := t0.testBit 7
    v := decide (s < -128) || decide (s > 127)
    z := bin == 0
    c := decide (t ≥ 0x100) }

/-- The value `SubDecimal(m)` stores in A (43_arith_logic.md R202). `% 16` on the integers is `& 0x0F` of the two's
complement form. -/
def subDecimalValue (a m : Byte) (carry : Bool) : Byte :=
  let lo0 : Int := ((a &&& 0x0F).toNat : Int) - ((m &&& 0x0F).toNat : Int) + (carry.toNat : Int) - 1
  let lo : Int := if lo0 < 0 then (lo0 - 0x06) % 16 - 0x10 else lo0
  let t0 : Int := ((a &&& 0xF0).toNat : Int) - ((m &&& 0xF0).toNat : Int) + lo
  let t : Int := if t0 < 0 then t0 - 0x60 else t0
  BitVec.ofInt 8 t

/-- `SubDecimal(m)`: the flags of the binary subtraction, a decimal value (43_arith_logic.md R202). -/
def subDecimal (a m : Byte) (carry : Bool) : AluResult :=
  { addBinary a (m ^^^ 0xFF) carry with result := subDecimalValue a m carry }

/-- The sum ADC computes: decimal only when DECIMAL_MODE and P.D are both set (43_arith_logic.md R205). -/
def adcResult (cfg : Config) (p : Status) (a m : Byte) : AluResult :=
  if cfg.decimalMode && p.d then addDecimal a m p.c else addBinary a m p.c

/-- The difference SBC computes (43_arith_logic.md R206). -/
def sbcResult (cfg : Config) (p : Status) (a m : Byte) : AluResult :=
  if cfg.decimalMode && p.d then subDecimal a m p.c else addBinary a (m ^^^ 0xFF) p.c

/-- P after `Compare(r, m)`: C from r >= m, setNZ of the difference, V unchanged (43_arith_logic.md R203). -/
def Status.compare (p : Status) (r m : Byte) : Status :=
  { p with c := decide (m.toNat ≤ r.toNat) }.withNZ (r - m)

/-- P after `BIT`: Z from A & M, N and V from bits 7 and 6 of M (43_arith_logic.md R210). -/
def Status.bitTest (p : Status) (a m : Byte) : Status :=
  { p with z := a &&& m == 0, n := m.getLsbD 7, v := m.getLsbD 6 }

/-- The result of a shift or rotate and the bit shifted out. -/
structure ShiftResult where
  result : Byte
  carry : Bool
deriving DecidableEq, Repr

/-- ASL (44_shift_rotate.md R241). -/
def shiftLeft (v : Byte) : ShiftResult := { result := v <<< 1, carry := v.getLsbD 7 }

/-- LSR (44_shift_rotate.md R242). -/
def shiftRight (v : Byte) : ShiftResult := { result := v >>> 1, carry := v.getLsbD 0 }

/-- ROL (44_shift_rotate.md R243). -/
def rotateLeft (v : Byte) (carryIn : Bool) : ShiftResult :=
  { result := (v <<< 1) ||| bitIf carryIn 0x01, carry := v.getLsbD 7 }

/-- ROR (44_shift_rotate.md R244). -/
def rotateRight (v : Byte) (carryIn : Bool) : ShiftResult :=
  { result := (v >>> 1) ||| bitIf carryIn 0x80, carry := v.getLsbD 0 }

/-- P after a shift: C from the bit shifted out, setNZ of the result (44_shift_rotate.md R240). -/
def Status.withShift (p : Status) (o : ShiftResult) : Status := { p with c := o.carry }.withNZ o.result

end Sys2Proof.Machine
end

