-- ==== Sys2Proof/Machine/Ops.lean ====
section
/-! DEFINITION. The named operations over registers and memory: register writes, memory reads and writes through the
Bus (00_scope.md R12), the stack (20_memory.md R73, R74), raising IllegalOpcode (60_exceptions.md R300, R301), the BRK
trap entry and the return from it (R311, R312). -/

namespace Sys2Proof.Machine

/-- `A <- v` (00_scope.md R11). -/
def State.setA (s : State) (v : Byte) : State := { s with a := v }

/-- `X <- v`. -/
def State.setX (s : State) (v : Byte) : State := { s with x := v }

/-- `Y <- v`. -/
def State.setY (s : State) (v : Byte) : State := { s with y := v }

/-- `SP <- v`. -/
def State.setSp (s : State) (v : Byte) : State := { s with sp := v }

/-- `PC <- target`. -/
def State.setPc (s : State) (target : Addr) : State := { s with pc := target }

/-- P replaced; the parts of P an instruction keeps are the caller's to keep. -/
def State.setP (s : State) (p : Status) : State := { s with p := p }

/-- `setNZ(v)` (00_scope.md R13). -/
def State.setNZ (s : State) (v : Byte) : State := s.setP (s.p.withNZ v)

/-- `MemRead(a, 1)` (00_scope.md R12, 20_memory.md R62). -/
def State.read (s : State) (a : Addr) : Byte := busRead s.ram s.cart a

/-- `MemWrite(a, 1, v)` (00_scope.md R12, 20_memory.md R63). -/
def State.write (s : State) (a : Addr) (v : Byte) : State := { s with ram := busWrite s.ram a v }

/-- `MemRead(a, 2)`, the high byte from a + 1 modulo 65536 (00_scope.md R12, 20_memory.md R71). -/
def State.read16 (s : State) (a : Addr) : Addr := word (s.read (a + 1)) (s.read a)

/-- `ZpRead16(z)`, the high byte from the zero page even for z = 0xFF (00_scope.md R12). -/
def State.zpRead16 (s : State) (z : Byte) : Addr := word (s.read (zext16 (z + 1))) (s.read (zext16 z))

/-- The Indirect pointer's two reads, the high byte from the pointer's own page (40_step_and_addressing.md R146). -/
def State.indirectTarget (s : State) (ptr : Addr) : Addr :=
  word (s.read ((ptr &&& 0xFF00) ||| ((ptr + 1) &&& 0x00FF))) (s.read ptr)

/-- The stack location a stack pointer designates, `0x0100 + SP` (10_state.md R34). -/
def stackAddr (sp : Byte) : Addr := 0x0100 + zext16 sp

/-- `Push(v)` (20_memory.md R73). -/
def State.push (s : State) (v : Byte) : State := (s.write (stackAddr s.sp) v).setSp (s.sp - 1)

/-- The byte `Pull()` returns (20_memory.md R74). -/
def State.pulled (s : State) : Byte := s.read (stackAddr (s.sp + 1))

/-- The state after `Pull()`: SP one up, modulo 256 (20_memory.md R74). -/
def State.afterPull (s : State) : State := s.setSp (s.sp + 1)

/-- A return address pushed, high byte first (20_memory.md R70, 45_control.md R261). -/
def State.pushAddr (s : State) (w : Addr) : State := (s.push (hi8 w)).push (lo8 w)

/-- The address two pulls give: low byte first, then high (45_control.md R262). -/
def State.pulledAddr (s : State) : Addr := word s.afterPull.pulled s.pulled

/-- `raise IllegalOpcode(op, addr)`: PC one past the byte, the fault recorded, nothing else changed
(60_exceptions.md R300, R301). The stop itself is `step`'s, on the state with the record set (notes/assumptions/8.md). -/
def State.raiseIllegalOpcode (s : State) (op : Byte) (addr : Addr) : State :=
  { s with pc := addr + 1, fault := some { op := op, addr := addr } }

/-- The one vectored entry (60_exceptions.md R311): the return address and `P | 0x30` on the stack, I set, the other
flags kept, PC from the vector. -/
def State.enterTrap (s : State) (ret : Addr) : State :=
  let pushed := (s.pushAddr ret).push s.p.pushed
  (pushed.setP { pushed.p with i := true }).setPc (pushed.read16 brkVector)

/-- The return from the vectored entry (60_exceptions.md R312): P pulled without bits 5 and 4, then PC low, then PC high. -/
def State.returnFromTrap (s : State) : State :=
  let t := s.afterPull.setP (Status.ofPulled s.pulled)
  t.afterPull.afterPull.setPc t.pulledAddr

/-- The status byte the host reads (60_exceptions.md R330). -/
def State.statusByte (s : State) : Byte := s.p.toByte

end Sys2Proof.Machine
end

