-- ==== Sys2Proof/Machine/Operands.lean ====
section
/-! DEFINITION. Operand resolution: the 13 addressing modes (40_step_and_addressing.md R135 to R149). -/

namespace Sys2Proof.Machine

/-- The effective address of a memory operand (40_step_and_addressing.md R138 to R145). -/
def effAddr (m : MemOperand) (s : State) : Addr :=
  match m with
  | .zp z => zext16 z
  | .zpX z => zext16 (z + s.x)
  | .zpY z => zext16 (z + s.y)
  | .abs w => w
  | .absX w => w + zext16 s.x
  | .absY w => w + zext16 s.y
  | .indX z => s.zpRead16 (z + s.x)
  | .indY z => s.zpRead16 z + zext16 s.y

/-- The page-cross indicator (40_step_and_addressing.md R137): the base's page against the effective address's. -/
def crossed (m : MemOperand) (s : State) : Bool :=
  match m with
  | .absX w => page w != page (effAddr m s)
  | .absY w => page w != page (effAddr m s)
  | .indY z => page (s.zpRead16 z) != page (effAddr m s)
  | .zp _ | .zpX _ | .zpY _ | .abs _ | .indX _ => false

/-- The operand value `M` of a memory operand (40_step_and_addressing.md R135). -/
def memValue (m : MemOperand) (s : State) : Byte := s.read (effAddr m s)

/-- The operand value `M` of a read instruction (40_step_and_addressing.md R135, R136). -/
def readValue (o : ReadOperand) (s : State) : Byte :=
  match o with
  | .imm v => v
  | .mem m => memValue m s

/-- The operand value of a shift or rotate (44_shift_rotate.md R240). -/
def shiftValue (o : ShiftOperand) (s : State) : Byte :=
  match o with
  | .acc => s.a
  | .mem m => memValue m s

/-- The result of a shift or rotate written back, once (44_shift_rotate.md R240). -/
def writeShift (o : ShiftOperand) (r : Byte) (s : State) : State :=
  match o with
  | .acc => s.setA r
  | .mem m => s.write (effAddr m s) r

/-- The target of JMP (45_control.md R260). -/
def jumpTarget (t : JumpOperand) (s : State) : Addr :=
  match t with
  | .abs w => w
  | .ind ptr => s.indirectTarget ptr

/-- A branch's target, relative to the fall-through address (40_step_and_addressing.md R149). -/
def branchTarget (fall : Addr) (off : Byte) : Addr := fall + sext16 off

end Sys2Proof.Machine
end

