-- ==== Sys2Proof/Machine/LoadStore.lean ====
section
/-! DEFINITION. Loads, stores and register transfers (41_load_store_transfer.md R160 to R171). -/

namespace Sys2Proof.Machine

/-- What a meaning answers. -/
abbrev Result := Host.Outcome State Fault Refusal

/-- LDA (R160). -/
def execLda (o : ReadOperand) (s : State) : Result :=
  .next ((s.setA (readValue o s)).setNZ (readValue o s))

/-- LDX (R161). -/
def execLdx (o : ReadOperand) (s : State) : Result :=
  .next ((s.setX (readValue o s)).setNZ (readValue o s))

/-- LDY (R162). -/
def execLdy (o : ReadOperand) (s : State) : Result :=
  .next ((s.setY (readValue o s)).setNZ (readValue o s))

/-- STA (R163). -/
def execSta (m : MemOperand) (s : State) : Result := .next (s.write (effAddr m s) s.a)

/-- STX (R164). -/
def execStx (m : MemOperand) (s : State) : Result := .next (s.write (effAddr m s) s.x)

/-- STY (R165). -/
def execSty (m : MemOperand) (s : State) : Result := .next (s.write (effAddr m s) s.y)

/-- TAX (R166). -/
def execTax (s : State) : Result := .next ((s.setX s.a).setNZ s.a)

/-- TAY (R167). -/
def execTay (s : State) : Result := .next ((s.setY s.a).setNZ s.a)

/-- TXA (R168). -/
def execTxa (s : State) : Result := .next ((s.setA s.x).setNZ s.x)

/-- TYA (R169). -/
def execTya (s : State) : Result := .next ((s.setA s.y).setNZ s.y)

/-- TSX (R170). -/
def execTsx (s : State) : Result := .next ((s.setX s.sp).setNZ s.sp)

/-- TXS, the one transfer that sets no flag (R171). -/
def execTxs (s : State) : Result := .next (s.setSp s.x)

end Sys2Proof.Machine
end

