-- ==== Sys2Proof/Machine/Arith.lean ====
section
/-! DEFINITION. Arithmetic, logical, compare, increment and decrement instructions (43_arith_logic.md R205 to R219). -/

namespace Sys2Proof.Machine

/-- An arithmetic result written to A and to N, V, Z and C. -/
def State.writeAlu (s : State) (o : AluResult) : State := (s.setA o.result).setP (s.p.withNVZC o)

/-- A logical result written to A, with setNZ. -/
def State.writeLogic (s : State) (r : Byte) : State := (s.setA r).setNZ r

/-- A read-modify-write result: one write to the effective address, with setNZ (40_step_and_addressing.md R150). -/
def State.writeBack (s : State) (a : Addr) (r : Byte) : State := (s.write a r).setNZ r

/-- ADC (R205). -/
def execAdc (o : ReadOperand) (s : State) : Result :=
  .next (s.writeAlu (adcResult s.cfg s.p s.a (readValue o s)))

/-- SBC (R206). -/
def execSbc (o : ReadOperand) (s : State) : Result :=
  .next (s.writeAlu (sbcResult s.cfg s.p s.a (readValue o s)))

/-- AND (R207). -/
def execAnd (o : ReadOperand) (s : State) : Result := .next (s.writeLogic (s.a &&& readValue o s))

/-- ORA (R208). -/
def execOra (o : ReadOperand) (s : State) : Result := .next (s.writeLogic (s.a ||| readValue o s))

/-- EOR (R209). -/
def execEor (o : ReadOperand) (s : State) : Result := .next (s.writeLogic (s.a ^^^ readValue o s))

/-- BIT (R210). -/
def execBit (m : MemOperand) (s : State) : Result := .next (s.setP (s.p.bitTest s.a (memValue m s)))

/-- CMP (R211). -/
def execCmp (o : ReadOperand) (s : State) : Result := .next (s.setP (s.p.compare s.a (readValue o s)))

/-- CPX (R212). -/
def execCpx (o : ReadOperand) (s : State) : Result := .next (s.setP (s.p.compare s.x (readValue o s)))

/-- CPY (R213). -/
def execCpy (o : ReadOperand) (s : State) : Result := .next (s.setP (s.p.compare s.y (readValue o s)))

/-- INC (R214). -/
def execInc (m : MemOperand) (s : State) : Result := .next (s.writeBack (effAddr m s) (memValue m s + 1))

/-- DEC (R215). -/
def execDec (m : MemOperand) (s : State) : Result := .next (s.writeBack (effAddr m s) (memValue m s - 1))

/-- INX (R216). -/
def execInx (s : State) : Result := .next ((s.setX (s.x + 1)).setNZ (s.x + 1))

/-- INY (R217). -/
def execIny (s : State) : Result := .next ((s.setY (s.y + 1)).setNZ (s.y + 1))

/-- DEX (R218). -/
def execDex (s : State) : Result := .next ((s.setX (s.x - 1)).setNZ (s.x - 1))

/-- DEY (R219). -/
def execDey (s : State) : Result := .next ((s.setY (s.y - 1)).setNZ (s.y - 1))

end Sys2Proof.Machine
end

