-- ==== Sys2Proof/Machine/Control.lean ====
section
/-! DEFINITION. Control-transfer instructions (45_control.md R250 to R264). PC is the fall-through address while they
execute (10_state.md R35). -/

namespace Sys2Proof.Machine

/-- The branch common rule (R250). -/
def State.branch (s : State) (cond : Bool) (off : Byte) : State :=
  if cond then s.setPc (branchTarget s.pc off) else s

/-- BPL (R251). -/
def execBpl (off : Byte) (s : State) : Result := .next (s.branch (!s.p.n) off)

/-- BMI (R252). -/
def execBmi (off : Byte) (s : State) : Result := .next (s.branch s.p.n off)

/-- BVC (R253). -/
def execBvc (off : Byte) (s : State) : Result := .next (s.branch (!s.p.v) off)

/-- BVS (R254). -/
def execBvs (off : Byte) (s : State) : Result := .next (s.branch s.p.v off)

/-- BCC (R255). -/
def execBcc (off : Byte) (s : State) : Result := .next (s.branch (!s.p.c) off)

/-- BCS (R256). -/
def execBcs (off : Byte) (s : State) : Result := .next (s.branch s.p.c off)

/-- BNE (R257). -/
def execBne (off : Byte) (s : State) : Result := .next (s.branch (!s.p.z) off)

/-- BEQ (R258). -/
def execBeq (off : Byte) (s : State) : Result := .next (s.branch s.p.z off)

/-- JMP (R260). -/
def execJmp (t : JumpOperand) (s : State) : Result := .next (s.setPc (jumpTarget t s))

/-- JSR: the pushed address is that of its last byte (R261). -/
def execJsr (target : Addr) (s : State) : Result := .next ((s.pushAddr (s.pc - 1)).setPc target)

/-- RTS: one past the pulled address (R262). -/
def execRts (s : State) : Result := .next (s.afterPull.afterPull.setPc (s.pulledAddr + 1))

/-- BRK: the return address skips the byte after it (R263, 30_encoding.md R103). -/
def execBrk (s : State) : Result := .next (s.enterTrap (s.pc + 1))

/-- RTI (R264). -/
def execRti (s : State) : Result := .next s.returnFromTrap

end Sys2Proof.Machine
end

