-- ==== Sys2Proof/Machine/FlagNop.lean ====
section
/-! DEFINITION. Flag instructions, NOP, the undocumented NOPs (46_flag_nop.md R280 to R293) and the illegal bytes
(60_exceptions.md R300). -/

namespace Sys2Proof.Machine

/-- CLC (R280). -/
def execClc (s : State) : Result := .next (s.setP { s.p with c := false })

/-- SEC (R281). -/
def execSec (s : State) : Result := .next (s.setP { s.p with c := true })

/-- CLI (R282). -/
def execCli (s : State) : Result := .next (s.setP { s.p with i := false })

/-- SEI (R283). -/
def execSei (s : State) : Result := .next (s.setP { s.p with i := true })

/-- CLD (R284). -/
def execCld (s : State) : Result := .next (s.setP { s.p with d := false })

/-- SED (R285). -/
def execSed (s : State) : Result := .next (s.setP { s.p with d := true })

/-- CLV (R286). -/
def execClv (s : State) : Result := .next (s.setP { s.p with v := false })

/-- NOP, documented (R287). -/
def execNop (s : State) : Result := .next s

/-- An undocumented NOP of `length` bytes: nothing under UNDOC_NOP_EXEC, else IllegalOpcode at its opcode byte, with
PC one past that byte (30_encoding.md R108, 40_step_and_addressing.md R132; notes/assumptions/11.md). -/
def undocumentedNop (op : Byte) (length : Addr) (s : State) : State :=
  if s.cfg.undocNopExec then s else s.raiseIllegalOpcode op (s.pc - length)

/-- Undocumented NOP, Implicit (R288). -/
def execNopImp (op : Byte) (s : State) : Result := .next (undocumentedNop op 1 s)

/-- Undocumented NOP, Immediate: the operand byte is ignored (R289). -/
def execNopImm (op _v : Byte) (s : State) : Result := .next (undocumentedNop op 2 s)

/-- Undocumented NOP, ZeroPage: no data read (R290). -/
def execNopZp (op _z : Byte) (s : State) : Result := .next (undocumentedNop op 2 s)

/-- Undocumented NOP, ZeroPageX: no data read (R291). -/
def execNopZpX (op _z : Byte) (s : State) : Result := .next (undocumentedNop op 2 s)

/-- Undocumented NOP, Absolute: no data read (R292). -/
def execNopAbs (_w : Addr) (s : State) : Result := .next (undocumentedNop 0x0C 3 s)

/-- Undocumented NOP, AbsoluteX: no data read (R293). -/
def execNopAbsX (op : Byte) (_w : Addr) (s : State) : Result := .next (undocumentedNop op 3 s)

/-- The illegal bytes: `raise IllegalOpcode(op, PC0)`, where PC0 is one before the fall-through address
(40_step_and_addressing.md R132, 60_exceptions.md R300, R301). -/
def execIllegal (op : Byte) (s : State) : Result := .next (s.raiseIllegalOpcode op (s.pc - 1))

end Sys2Proof.Machine
end

