-- ==== Sys2Proof/Machine/Shift.lean ====
section
/-! DEFINITION. Shift and rotate instructions (44_shift_rotate.md R240 to R244). -/

namespace Sys2Proof.Machine

/-- A shift's result written back to A or to memory, with C and setNZ (R240). -/
def State.finishShift (s : State) (o : ShiftOperand) (r : ShiftResult) : State :=
  (writeShift o r.result s).setP (s.p.withShift r)

/-- ASL (R241). -/
def execAsl (o : ShiftOperand) (s : State) : Result := .next (s.finishShift o (shiftLeft (shiftValue o s)))

/-- LSR (R242). -/
def execLsr (o : ShiftOperand) (s : State) : Result := .next (s.finishShift o (shiftRight (shiftValue o s)))

/-- ROL (R243). -/
def execRol (o : ShiftOperand) (s : State) : Result := .next (s.finishShift o (rotateLeft (shiftValue o s) s.p.c))

/-- ROR (R244). -/
def execRor (o : ShiftOperand) (s : State) : Result := .next (s.finishShift o (rotateRight (shiftValue o s) s.p.c))

end Sys2Proof.Machine
end

