-- ==== Sys2Proof/Machine/Stack.lean ====
section
/-! DEFINITION. Stack instructions (42_stack.md R190 to R193). -/

namespace Sys2Proof.Machine

/-- PHA (R190). -/
def execPha (s : State) : Result := .next (s.push s.a)

/-- PHP: the pushed copy has B and U set (R191). -/
def execPhp (s : State) : Result := .next (s.push s.p.pushed)

/-- PLA (R192). -/
def execPla (s : State) : Result := .next ((s.afterPull.setA s.pulled).setNZ s.pulled)

/-- PLP: bits 5 and 4 of the pulled byte are discarded (R193). -/
def execPlp (s : State) : Result := .next (s.afterPull.setP (Status.ofPulled s.pulled))

end Sys2Proof.Machine
end

