-- ==== Sys2Proof/Machine/Fetch.lean ====
section
/-! DEFINITION. Fetch, decode and operand fetch (40_step_and_addressing.md R131 to R133), and the placing of an
instruction's bytes where the next fetch reads them. -/

namespace Sys2Proof.Machine

/-- The opcode byte of the next instruction (40_step_and_addressing.md R131). -/
def State.fetchOpcode (s : State) : Byte := s.read s.pc

/-- The next instruction: the opcode byte, then only the operand bytes its table entry has, each address modulo 65536
(40_step_and_addressing.md R131 to R133). -/
def State.fetchInstr (s : State) : Instr :=
  match operandCount s.fetchOpcode with
  | 0 => instrOf s.fetchOpcode 0 0
  | 1 => instrOf s.fetchOpcode (s.read (s.pc + 1)) 0
  | _ => instrOf s.fetchOpcode (s.read (s.pc + 1)) (s.read (s.pc + 2))

/-- The fall-through address: PC0 plus the instruction's length (40_step_and_addressing.md R133). -/
def State.fallThrough (s : State) : Addr := s.pc + 1 + BitVec.ofNat 16 (operandCount s.fetchOpcode)

/-- An address with storage behind it: RAM or PRG. -/
def hasStorage (a : Addr) : Bool := isRam a || isCartridge a

/-- A byte put into the storage behind an address, PRG too (no bus write: this stands for the load of a program). -/
def State.place (s : State) (a : Addr) (v : Byte) : State :=
  if isRam a then { s with ram := s.ram.write (ramIndex a) v }
  else if isCartridge a then { s with cart := { s.cart with prg := s.cart.prg.write (prgIndex s.cart a) v } }
  else s

/-- Bytes put into the storage behind consecutive addresses, modulo 65536. -/
def State.placeAll : State → Addr → List Byte → State
  | s, _, [] => s
  | s, a, b :: bs => (s.place a b).placeAll (a + 1) bs

/-- Where three bytes can be placed for the next fetch: at PC, or at 0x0000 when one of the three addresses at PC has
no storage (20_memory.md R67). -/
def State.placingAddr (s : State) : Addr :=
  if hasStorage s.pc && hasStorage (s.pc + 1) && hasStorage (s.pc + 2) then s.pc else 0x0000

end Sys2Proof.Machine
end

