-- ==== Sys2Proof/Machine/Step.lean ====
section
/-! DEFINITION. One step (40_step_and_addressing.md R130 to R134, 60_exceptions.md R302). -/

namespace Sys2Proof.Machine

/-- `step()`: a state whose fault record is set has no step (60_exceptions.md R302); otherwise fetch, decode and
operand fetch, then execute with PC at the fall-through address. -/
def step (s : State) : Host.Outcome State Fault Refusal :=
  match s.fault with
  | some f => .fault (.illegalOpcode f.op f.addr)
  | none => exec s.fetchInstr (s.setPc s.fallThrough)

/-- `s` with an instruction's table bits stored where `step` fetches next (notes/assumptions/7.md): the three bytes at
PC, or at 0x0000 with PC moved there when PC's bytes lie in the unmapped region; a set fault record is taken out, since
a faulted state fetches nothing. -/
def State.withFetchWord (s : State) (nbits w : Nat) : State :=
  ({ s with pc := s.placingAddr, fault := none }).placeAll s.placingAddr (tableBytes nbits w)

end Sys2Proof.Machine
end

