-- ==== Sys2Proof/Machine/Cycles.lean ====
section
/-! DEFINITION. What `step()` returns to the host (40_step_and_addressing.md R130, 70_reset_and_hazards.md R360 to R362):
an output beside the state, read by no rule (10_state.md R51; notes/assumptions/9.md). -/

namespace Sys2Proof.Machine

/-- The base cycle count of an opcode byte; `none` for an illegal byte (30_encoding.md R104, R106). -/
def baseCycles (op : Byte) : Option Nat :=
  match entryAt op with
  | .documented _ _ cycles _ => some cycles
  | .undocumentedNop _ cycles _ => some cycles
  | .illegal => none

/-- The page-cross penalty flag of an opcode byte (30_encoding.md R104, 70_reset_and_hazards.md R361). -/
def pageCrossPenalty (op : Byte) : Bool :=
  match entryAt op with
  | .documented _ _ _ pageCross => pageCross
  | .undocumentedNop _ _ pageCross => pageCross
  | .illegal => false

/-- `crossed` of a read operand (40_step_and_addressing.md R137). -/
def readCrossed (o : ReadOperand) (s : State) : Bool :=
  match o with
  | .imm _ => false
  | .mem m => crossed m s

/-- `crossed` of a shift operand; the accumulator has no effective address (40_step_and_addressing.md R137). -/
def shiftCrossed (o : ShiftOperand) (s : State) : Bool :=
  match o with
  | .acc => false
  | .mem m => crossed m s

/-- `crossed` of an instruction (40_step_and_addressing.md R137). -/
def instrCrossed (i : Instr) (s : State) : Bool :=
  match i with
  | .lda o | .ldx o | .ldy o | .adc o | .sbc o | .and o | .ora o | .eor o | .cmp o | .cpx o | .cpy o => readCrossed o s
  | .sta m | .stx m | .sty m | .bit m | .inc m | .dec m => crossed m s
  | .asl o | .lsr o | .rol o | .ror o => shiftCrossed o s
  | .nopAbsX _ w => crossed (.absX w) s
  | .bpl _ | .bmi _ | .bvc _ | .bvs _ | .bcc _ | .bcs _ | .bne _ | .beq _ | .jmp _ | .jsr _ => false
  | .tax | .tay | .txa | .tya | .tsx | .txs | .pha | .php | .pla | .plp | .inx | .iny | .dex | .dey
  | .rts | .brk | .rti | .clc | .sec | .cli | .sei | .cld | .sed | .clv | .nop => false
  | .nopImp _ | .nopImm _ _ | .nopZp _ _ | .nopZpX _ _ | .nopAbs _ | .illegal _ => false

/-- A branch's extra cycles: 1 if taken, 1 more if the target's page is not the fall-through address's (45_control.md R250). -/
def branchCycles (fall : Addr) (cond : Bool) (off : Byte) : Nat :=
  if cond then (if page (branchTarget fall off) != page fall then 2 else 1) else 0

/-- The branch part of a step's cycle count; `s.pc` is the fall-through address (70_reset_and_hazards.md R360). -/
def instrBranchCycles (i : Instr) (s : State) : Nat :=
  match i with
  | .bpl off => branchCycles s.pc (!s.p.n) off
  | .bmi off => branchCycles s.pc s.p.n off
  | .bvc off => branchCycles s.pc (!s.p.v) off
  | .bvs off => branchCycles s.pc s.p.v off
  | .bcc off => branchCycles s.pc (!s.p.c) off
  | .bcs off => branchCycles s.pc s.p.c off
  | .bne off => branchCycles s.pc (!s.p.z) off
  | .beq off => branchCycles s.pc s.p.z off
  | .lda _ | .ldx _ | .ldy _ | .sta _ | .stx _ | .sty _ | .adc _ | .sbc _ | .and _ | .ora _ | .eor _ | .bit _
  | .cmp _ | .cpx _ | .cpy _ | .inc _ | .dec _ | .asl _ | .lsr _ | .rol _ | .ror _ | .jmp _ | .jsr _ => 0
  | .tax | .tay | .txa | .tya | .tsx | .txs | .pha | .php | .pla | .plp | .inx | .iny | .dex | .dey
  | .rts | .brk | .rti | .clc | .sec | .cli | .sei | .cld | .sed | .clv | .nop => 0
  | .nopImp _ | .nopImm _ _ | .nopZp _ _ | .nopZpX _ _ | .nopAbs _ | .nopAbsX _ _ | .illegal _ => 0

/-- The cycle count of an instruction executed from a state whose PC is the fall-through address; `none` where it has
no encoding or is illegal (70_reset_and_hazards.md R360, R362). -/
def cycles (i : Instr) (s : State) : Option Nat :=
  match opcode i with
  | none => none
  | some op =>
    match baseCycles op with
    | none => none
    | some base =>
      some (base + (if pageCrossPenalty op && instrCrossed i s then 1 else 0) + instrBranchCycles i s)

/-- What one call of `step()` returns (40_step_and_addressing.md R130, 60_exceptions.md R300). -/
inductive StepResult where
  /-- `Ok(cycles)`. -/
  | ok (cycles : Nat)
  /-- `Err(IllegalOpcode(op, addr))`, no cycle count (70_reset_and_hazards.md R362). -/
  | illegalOpcode (op : Byte) (addr : Addr)
deriving DecidableEq, Repr

/-- The opcode byte raises IllegalOpcode at decode under this machine's policy (40_step_and_addressing.md R132). -/
def raisesIllegal (cfg : Config) (op : Byte) : Bool :=
  match opcodeClass op with
  | .documented => false
  | .undocumentedNop => !cfg.undocNopExec
  | .illegal => true

/-- What `step()` returns from a state; `none` where the host must not call it (60_exceptions.md R302, R330). -/
def stepResult (s : State) : Option StepResult :=
  match s.fault with
  | some _ => none
  | none =>
    if raisesIllegal s.cfg s.fetchOpcode then some (.illegalOpcode s.fetchOpcode s.pc)
    else (cycles s.fetchInstr (s.setPc s.fallThrough)).map .ok

end Sys2Proof.Machine
end

