-- ==== Sys2Proof/Safety.lean ====
section
/-! DEFINITION. What claims call a running machine and a legal state. -/

namespace Sys2Proof.Machine

/-- No fault is recorded, so `step()` may be called (60_exceptions.md R302). -/
def State.running (s : State) : Bool := s.fault.isNone

/-- The fault record says where the machine stands: its byte is the byte at its address and raises IllegalOpcode, and
PC is one past it (60_exceptions.md R300, R301). -/
def State.faultPrecise (s : State) : Bool :=
  match s.fault with
  | none => true
  | some f => s.pc == f.addr + 1 && s.read f.addr == f.op && raisesIllegal s.cfg f.op

/-- A legal state: RAM in canonical form within its 2048 bytes, a cartridge as a load leaves it, a precise fault record. -/
def State.legal (s : State) : Bool := s.ram.wf ramSize && s.cart.wf && s.faultPrecise

/-- The states a run passes through: `s` after `n` steps, if each answered a next state. -/
def runSteps : Nat → State → Option State
  | 0, s => some s
  | n + 1, s =>
    match step s with
    | .next t => runSteps n t
    | .fault _ => none
    | .refused _ => none

end Sys2Proof.Machine
end

