-- ==== Sys2Proof/Certificates/Slice0/Obligations.lean ====
section
/-! DEFINITION. The statements for the provers. The helpers below write out the tables of the spec a statement refers to;
`s.pc` in a statement about `exec` is the fall-through address (10_state.md R35). -/

namespace Sys2Proof.Claims

open Sys2Proof Sys2Proof.Machine

/-- One form in the **Encoding** part of an instruction's rule: opcode byte, base cycles, and whether `crossed` adds one. -/
structure Form where
  op : Byte
  base : Nat
  crossPenalty : Bool

/-- The instruction has exactly this form: its bytes and what its step costs; without a form it has no encoding. -/
def HasForm (i : Instr) (operand : List Byte) (cross : State → Bool) : Option Form → Prop
  | none => i.wellFormed = false
  | some f => i.wellFormed = true ∧ encode i = f.op :: operand ∧
      ∀ s, cycles i s = some (f.base + if f.crossPenalty && cross s then 1 else 0)

/-- A one-byte instruction of a fixed cycle count. -/
def Implied (i : Instr) (op : Byte) (base : Nat) : Prop :=
  HasForm i [] (fun _ => false) (some { op := op, base := base, crossPenalty := false })

/-- The eight forms of LDA, ADC, SBC, AND, ORA, EOR and CMP. -/
def accForms (imm zp zpX abs absX absY indX indY : Byte) : ReadOperand → Option Form
  | .imm _ => some ⟨imm, 2, false⟩
  | .mem (.zp _) => some ⟨zp, 3, false⟩
  | .mem (.zpX _) => some ⟨zpX, 4, false⟩
  | .mem (.zpY _) => none
  | .mem (.abs _) => some ⟨abs, 4, false⟩
  | .mem (.absX _) => some ⟨absX, 4, true⟩
  | .mem (.absY _) => some ⟨absY, 4, true⟩
  | .mem (.indX _) => some ⟨indX, 6, false⟩
  | .mem (.indY _) => some ⟨indY, 5, true⟩

/-- The five forms of LDX. -/
def ldxForms : ReadOperand → Option Form
  | .imm _ => some ⟨0xA2, 2, false⟩
  | .mem (.zp _) => some ⟨0xA6, 3, false⟩
  | .mem (.abs _) => some ⟨0xAE, 4, false⟩
  | .mem (.zpY _) => some ⟨0xB6, 4, false⟩
  | .mem (.absY _) => some ⟨0xBE, 4, true⟩
  | _ => none

/-- The five forms of LDY. -/
def ldyForms : ReadOperand → Option Form
  | .imm _ => some ⟨0xA0, 2, false⟩
  | .mem (.zp _) => some ⟨0xA4, 3, false⟩
  | .mem (.abs _) => some ⟨0xAC, 4, false⟩
  | .mem (.zpX _) => some ⟨0xB4, 4, false⟩
  | .mem (.absX _) => some ⟨0xBC, 4, true⟩
  | _ => none

/-- The three forms of CPX and CPY. -/
def indexCompareForms (imm zp abs : Byte) : ReadOperand → Option Form
  | .imm _ => some ⟨imm, 2, false⟩
  | .mem (.zp _) => some ⟨zp, 3, false⟩
  | .mem (.abs _) => some ⟨abs, 4, false⟩
  | _ => none

/-- The seven forms of STA. -/
def staForms : MemOperand → Option Form
  | .indX _ => some ⟨0x81, 6, false⟩
  | .zp _ => some ⟨0x85, 3, false⟩
  | .abs _ => some ⟨0x8D, 4, false⟩
  | .indY _ => some ⟨0x91, 6, false⟩
  | .zpX _ => some ⟨0x95, 4, false⟩
  | .absY _ => some ⟨0x99, 5, false⟩
  | .absX _ => some ⟨0x9D, 5, false⟩
  | .zpY _ => none

/-- The three forms of STX. -/
def stxForms : MemOperand → Option Form
  | .zp _ => some ⟨0x86, 3, false⟩
  | .abs _ => some ⟨0x8E, 4, false⟩
  | .zpY _ => some ⟨0x96, 4, false⟩
  | _ => none

/-- The three forms of STY. -/
def styForms : MemOperand → Option Form
  | .zp _ => some ⟨0x84, 3, false⟩
  | .abs _ => some ⟨0x8C, 4, false⟩
  | .zpX _ => some ⟨0x94, 4, false⟩
  | _ => none

/-- The two forms of BIT. -/
def bitForms : MemOperand → Option Form
  | .zp _ => some ⟨0x24, 3, false⟩
  | .abs _ => some ⟨0x2C, 4, false⟩
  | _ => none

/-- The four memory forms of INC, DEC and the shifts. -/
def rmwForms (zp abs zpX absX : Byte) : MemOperand → Option Form
  | .zp _ => some ⟨zp, 5, false⟩
  | .abs _ => some ⟨abs, 6, false⟩
  | .zpX _ => some ⟨zpX, 6, false⟩
  | .absX _ => some ⟨absX, 7, false⟩
  | _ => none

/-- The five forms of a shift or rotate. -/
def shiftForms (acc zp abs zpX absX : Byte) : ShiftOperand → Option Form
  | .acc => some ⟨acc, 2, false⟩
  | .mem m => rmwForms zp abs zpX absX m

/-- P after `setNZ(v)` (00_scope.md R13). -/
def nz (p : Status) (v : Byte) : Status := { p with n := v.getLsbD 7, z := decide (v = 0) }

/-- The decimal branch of ADC and SBC is taken (43_arith_logic.md R205, R206). -/
def decimal (s : State) : Bool := s.cfg.decimalMode && s.p.d

/-- P after subtracting `m` and a borrow `b` from A with result `r`: C = 1 for no borrow, V for a signed difference
outside -128..127 (43_arith_logic.md R206). -/
def sbcFlags (s : State) (m r : Byte) (b : Nat) : Status :=
  { s.p with
    n := r.getLsbD 7
    v := decide (s.a.toInt - m.toInt - b < -128 ∨ 127 < s.a.toInt - m.toInt - b)
    z := decide (r = 0)
    c := decide (m.toNat + b ≤ s.a.toNat) }

/-- A byte that is two decimal digits. -/
def isBcd (v : Byte) : Prop := v.toNat % 16 ≤ 9 ∧ v.toNat / 16 ≤ 9

/-- The number two decimal digits stand for. -/
def bcdValue (v : Byte) : Nat := v.toNat / 16 * 10 + v.toNat % 16

/-- The operand is the accumulator. -/
def isAcc : ShiftOperand → Bool
  | .acc => true
  | .mem _ => false

/-- The writers of A that 10_state.md R31 lists. -/
def writesA : Instr → Bool
  | .lda _ | .txa | .tya | .pla | .adc _ | .sbc _ | .and _ | .ora _ | .eor _ => true
  | .asl o | .lsr o | .rol o | .ror o => isAcc o
  | .ldx _ | .ldy _ | .sta _ | .stx _ | .sty _ | .tax | .tay | .tsx | .txs | .pha | .php | .plp | .bit _
  | .cmp _ | .cpx _ | .cpy _ | .inc _ | .dec _ | .inx | .iny | .dex | .dey | .bpl _ | .bmi _ | .bvc _ | .bvs _
  | .bcc _ | .bcs _ | .bne _ | .beq _ | .jmp _ | .jsr _ | .rts | .brk | .rti | .clc | .sec | .cli | .sei | .cld
  | .sed | .clv | .nop | .nopImp _ | .nopImm _ _ | .nopZp _ _ | .nopZpX _ _ | .nopAbs _ | .nopAbsX _ _
  | .illegal _ => false

/-- The writers of X that 10_state.md R32 lists. -/
def writesX : Instr → Bool
  | .ldx _ | .tax | .tsx | .inx | .dex => true
  | .lda _ | .ldy _ | .sta _ | .stx _ | .sty _ | .tay | .txa | .tya | .txs | .pha | .php | .pla | .plp | .adc _
  | .sbc _ | .and _ | .ora _ | .eor _ | .bit _ | .cmp _ | .cpx _ | .cpy _ | .inc _ | .dec _ | .iny | .dey
  | .asl _ | .lsr _ | .rol _ | .ror _ | .bpl _ | .bmi _ | .bvc _ | .bvs _ | .bcc _ | .bcs _ | .bne _ | .beq _
  | .jmp _ | .jsr _ | .rts | .brk | .rti | .clc | .sec | .cli | .sei | .cld | .sed | .clv | .nop | .nopImp _
  | .nopImm _ _ | .nopZp _ _ | .nopZpX _ _ | .nopAbs _ | .nopAbsX _ _ | .illegal _ => false

/-- The writers of Y that 10_state.md R33 lists. -/
def writesY : Instr → Bool
  | .ldy _ | .tay | .iny | .dey => true
  | .lda _ | .ldx _ | .sta _ | .stx _ | .sty _ | .tax | .txa | .tya | .tsx | .txs | .pha | .php | .pla | .plp
  | .adc _ | .sbc _ | .and _ | .ora _ | .eor _ | .bit _ | .cmp _ | .cpx _ | .cpy _ | .inc _ | .dec _ | .inx
  | .dex | .asl _ | .lsr _ | .rol _ | .ror _ | .bpl _ | .bmi _ | .bvc _ | .bvs _ | .bcc _ | .bcs _ | .bne _
  | .beq _ | .jmp _ | .jsr _ | .rts | .brk | .rti | .clc | .sec | .cli | .sei | .cld | .sed | .clv | .nop
  | .nopImp _ | .nopImm _ _ | .nopZp _ _ | .nopZpX _ _ | .nopAbs _ | .nopAbsX _ _ | .illegal _ => false

/-- The writers of SP: TXS, and the instructions that push or pull (10_state.md R34). -/
def writesSp : Instr → Bool
  | .txs | .pha | .php | .pla | .plp | .jsr _ | .rts | .brk | .rti => true
  | .lda _ | .ldx _ | .ldy _ | .sta _ | .stx _ | .sty _ | .tax | .tay | .txa | .tya | .tsx | .adc _ | .sbc _
  | .and _ | .ora _ | .eor _ | .bit _ | .cmp _ | .cpx _ | .cpy _ | .inc _ | .dec _ | .inx | .iny | .dex | .dey
  | .asl _ | .lsr _ | .rol _ | .ror _ | .bpl _ | .bmi _ | .bvc _ | .bvs _ | .bcc _ | .bcs _ | .bne _ | .beq _
  | .jmp _ | .clc | .sec | .cli | .sei | .cld | .sed | .clv | .nop | .nopImp _ | .nopImm _ _ | .nopZp _ _
  | .nopZpX _ _ | .nopAbs _ | .nopAbsX _ _ | .illegal _ => false

/-- The control transfers, which overwrite PC (10_state.md R35). -/
def writesPc : Instr → Bool
  | .bpl _ | .bmi _ | .bvc _ | .bvs _ | .bcc _ | .bcs _ | .bne _ | .beq _ => true
  | .jmp _ | .jsr _ | .rts | .brk | .rti => true
  | .lda _ | .ldx _ | .ldy _ | .sta _ | .stx _ | .sty _ | .tax | .tay | .txa | .tya | .tsx | .txs | .pha | .php
  | .pla | .plp | .adc _ | .sbc _ | .and _ | .ora _ | .eor _ | .bit _ | .cmp _ | .cpx _ | .cpy _ | .inc _
  | .dec _ | .inx | .iny | .dex | .dey | .asl _ | .lsr _ | .rol _ | .ror _ | .clc | .sec | .cli | .sei | .cld
  | .sed | .clv | .nop | .nopImp _ | .nopImm _ _ | .nopZp _ _ | .nopZpX _ _ | .nopAbs _ | .nopAbsX _ _
  | .illegal _ => false

/-- The instructions that raise IllegalOpcode on this machine (60_exceptions.md R300). -/
def raises (cfg : Config) : Instr → Bool
  | .illegal _ => true
  | .nopImp _ | .nopImm _ _ | .nopZp _ _ | .nopZpX _ _ | .nopAbs _ | .nopAbsX _ _ => !cfg.undocNopExec
  | .lda _ | .ldx _ | .ldy _ | .sta _ | .stx _ | .sty _ | .tax | .tay | .txa | .tya | .tsx | .txs | .pha | .php
  | .pla | .plp | .adc _ | .sbc _ | .and _ | .ora _ | .eor _ | .bit _ | .cmp _ | .cpx _ | .cpy _ | .inc _
  | .dec _ | .inx | .iny | .dex | .dey | .asl _ | .lsr _ | .rol _ | .ror _ | .bpl _ | .bmi _ | .bvc _ | .bvs _
  | .bcc _ | .bcs _ | .bne _ | .beq _ | .jmp _ | .jsr _ | .rts | .brk | .rti | .clc | .sec | .cli | .sei | .cld
  | .sed | .clv | .nop => false

/-- Which flags an instruction writes: the columns N, V, D, I, Z, C of the table of 10_state.md R44. -/
structure FlagRow where
  n : Bool
  v : Bool
  d : Bool
  i : Bool
  z : Bool
  c : Bool

/-- The table of 10_state.md R44; an instruction not named there, and every faulting one (R45), writes no flag. -/
def flagRow : Instr → FlagRow
  | .adc _ | .sbc _ => ⟨true, true, false, false, true, true⟩
  | .and _ | .ora _ | .eor _ => ⟨true, false, false, false, true, false⟩
  | .bit _ => ⟨true, true, false, false, true, false⟩
  | .cmp _ | .cpx _ | .cpy _ => ⟨true, false, false, false, true, true⟩
  | .inc _ | .dec _ | .inx | .iny | .dex | .dey => ⟨true, false, false, false, true, false⟩
  | .asl _ | .lsr _ | .rol _ | .ror _ => ⟨true, false, false, false, true, true⟩
  | .lda _ | .ldx _ | .ldy _ => ⟨true, false, false, false, true, false⟩
  | .tax | .tay | .txa | .tya | .tsx => ⟨true, false, false, false, true, false⟩
  | .pla => ⟨true, false, false, false, true, false⟩
  | .plp | .rti => ⟨true, true, true, true, true, true⟩
  | .brk => ⟨false, false, false, true, false, false⟩
  | .clc | .sec => ⟨false, false, false, false, false, true⟩
  | .cli | .sei => ⟨false, false, false, true, false, false⟩
  | .cld | .sed => ⟨false, false, true, false, false, false⟩
  | .clv => ⟨false, true, false, false, false, false⟩
  | .sta _ | .stx _ | .sty _ | .txs | .pha | .php | .bpl _ | .bmi _ | .bvc _ | .bvs _ | .bcc _ | .bcs _
  | .bne _ | .beq _ | .jmp _ | .jsr _ | .rts | .nop | .nopImp _ | .nopImm _ _ | .nopZp _ _ | .nopZpX _ _
  | .nopAbs _ | .nopAbsX _ _ | .illegal _ => ⟨false, false, false, false, false, false⟩

/-- The address a shift stores its result to; the accumulator has none. -/
def shiftStores (s : State) : ShiftOperand → List Addr
  | .acc => []
  | .mem m => [effAddr m s]

/-- The addresses an instruction stores a byte to, in order, by the functions the meanings use. -/
def storedAddrs (s : State) : Instr → List Addr
  | .sta m | .stx m | .sty m | .inc m | .dec m => [effAddr m s]
  | .asl o | .lsr o | .rol o | .ror o => shiftStores s o
  | .pha | .php => [stackAddr s.sp]
  | .jsr _ => [stackAddr s.sp, stackAddr (s.sp - 1)]
  | .brk => [stackAddr s.sp, stackAddr (s.sp - 1), stackAddr (s.sp - 2)]
  | .lda _ | .ldx _ | .ldy _ | .tax | .tay | .txa | .tya | .tsx | .txs | .pla | .plp | .adc _ | .sbc _ | .and _
  | .ora _ | .eor _ | .bit _ | .cmp _ | .cpx _ | .cpy _ | .inx | .iny | .dex | .dey | .bpl _ | .bmi _ | .bvc _
  | .bvs _ | .bcc _ | .bcs _ | .bne _ | .beq _ | .jmp _ | .rts | .rti | .clc | .sec | .cli | .sei | .cld | .sed
  | .clv | .nop | .nopImp _ | .nopImm _ _ | .nopZp _ _ | .nopZpX _ _ | .nopAbs _ | .nopAbsX _ _ | .illegal _ => []

/-- The 29 opcode bytes of 70_reset_and_hazards.md R361. -/
def pageCrossBytes : List Byte :=
  [0x11, 0x19, 0x1C, 0x1D, 0x31, 0x39, 0x3C, 0x3D, 0x51, 0x59, 0x5C, 0x5D, 0x71, 0x79, 0x7C, 0x7D,
   0xB1, 0xB9, 0xBC, 0xBD, 0xBE, 0xD1, 0xD9, 0xDC, 0xDD, 0xF1, 0xF9, 0xFC, 0xFD]

/-- `n` executions of an instruction one after another, PC left alone by the instruction. -/
def execTimes (i : Instr) : Nat → State → Option State
  | 0, s => some s
  | n + 1, s =>
    match exec i s with
    | .next t => execTimes i n t
    | .fault _ => none
    | .refused _ => none

end Sys2Proof.Claims

section
open Sys2Proof Sys2Proof.Machine Sys2Proof.Claims

/-! ### Encoding -/

/-- Decoding the encoding of a well-formed instruction, whatever bytes follow, gives it back (30_encoding.md R100 to R102). -/
def Obligations.DecodeOfEncodeIsTheInstruction : Prop :=
  ∀ (i : Instr) (rest : List Byte), i.wellFormed = true → decode (encode i ++ rest) = .ok (i, rest)

/-- What the decoder reads is a well-formed instruction whose encoding is exactly the bytes taken (30_encoding.md R100, R110). -/
def Obligations.EncodeOfDecodeIsTheBytes : Prop :=
  ∀ (bs rest : List Byte) (i : Instr), decode bs = .ok (i, rest) → i.wellFormed = true ∧ encode i ++ rest = bs

/-- The class of every byte: the 78 listed bytes are illegal, the 27 listed bytes are undocumented NOPs, the other 151
are documented (30_encoding.md R107 to R109; which byte is in which class is the spec's own decision D2). -/
def Obligations.OpcodeClassesAreTheListedBytes : Prop :=
  ∀ op : Byte,
    (opcodeClass op = .illegal ↔ op ∈ illegalBytes) ∧
    (opcodeClass op = .undocumentedNop ↔
      op ∈ nopImpBytes ++ nopImmBytes ++ nopZpBytes ++ nopZpXBytes ++ [0x0C] ++ nopAbsXBytes)

/-- Words written out from the spec's encodings decode to the instructions they stand for, one or more of each family. -/
def Obligations.SampleWordsDecodeToTheirInstructions : Prop :=
  decodeTableWord 16 0x05A9 = some (.lda (.imm 0x05)) ∧
  decodeTableWord 24 0x12349D = some (.sta (.absX 0x1234)) ∧
  decodeTableWord 8 0x48 = some .pha ∧
  decodeTableWord 16 0x40F1 = some (.sbc (.mem (.indY 0x40))) ∧
  decodeTableWord 8 0x6A = some (.ror .acc) ∧
  decodeTableWord 16 0xFED0 = some (.bne 0xFE) ∧
  decodeTableWord 24 0x02FF6C = some (.jmp (.ind 0x02FF)) ∧
  decodeTableWord 8 0x00 = some .brk ∧
  decodeTableWord 24 0x20FF1C = some (.nopAbsX 0x1C 0x20FF) ∧
  decodeTableWord 8 0x9C = some (.illegal 0x9C)

/-! ### The step -/

/-- A step of a running machine is `exec` of the instruction its bytes at PC decode to, with PC at the fall-through
address (40_step_and_addressing.md R131, R133, R134). R132 ends the step before the operand fetch for an illegal byte and
for an undocumented NOP under UNDOC_NOP_EXEC = false: that the model runs their `exec` too, with PC at the fall-through
address, and leaves the check and the PC of R132 to their meanings is log entries 11 and 8. -/
def Obligations.StepRunsTheDecodedInstruction : Prop :=
  ∀ (s : State) (i : Instr) (rest : List Byte), s.fault = none →
    decode [s.read s.pc, s.read (s.pc + 1), s.read (s.pc + 2)] = .ok (i, rest) →
    step s = exec i (s.setPc (s.pc + BitVec.ofNat 16 (instrLength i)))

/-- The instruction bytes a step runs are always there: three bytes from any PC decode (30_encoding.md R104 "every byte
value must resolve to a valid entry"), and every step of a running machine answers a next state: where R130 gives Ok, no
execute part can fault (40_step_and_addressing.md R134, 60_exceptions.md R303); where R130 and R300 give Err, for an illegal
byte and for an undocumented NOP under UNDOC_NOP_EXEC = false, the next state that records the fault is the model's (log
entry 8). What an undocumented NOP's state holds under each policy is UndocumentedNopsFollowThePolicy's. -/
def Obligations.EveryRunningStepCompletes : Prop :=
  ∀ s : State, s.fault = none →
    (∃ i rest, decode [s.read s.pc, s.read (s.pc + 1), s.read (s.pc + 2)] = .ok (i, rest)) ∧ ∃ t, step s = .next t

/-- A machine whose fault record is set has no further step: `step` stops with what the record holds. The model's
reading of 60_exceptions.md R302 as a stop of `step` is log entry 8. -/
def Obligations.FaultedStateHasNoStep : Prop :=
  ∀ (s : State) (f : FaultRecord), s.fault = some f → step s = .fault (.illegalOpcode f.op f.addr)

/-- A step that fetches an illegal byte, or an undocumented NOP under UNDOC_NOP_EXEC = false, leaves PC one past the
byte, records the byte and its address, and changes nothing else (60_exceptions.md R300, R301). That the record is set
by a next state is log entry 8. -/
def Obligations.IllegalByteStepOnlyRecordsTheFault : Prop :=
  ∀ s : State, s.fault = none → raisesIllegal s.cfg (s.read s.pc) = true →
    step s = .next { s with pc := s.pc + 1, fault := some { op := s.read s.pc, addr := s.pc } }

/-- The illegal instruction itself, from the fall-through address: the record is set, nothing else changes
(60_exceptions.md R300, R301; log entry 8). -/
def Obligations.IllegalInstructionRecordsTheFault : Prop :=
  ∀ (op : Byte) (s : State),
    exec (.illegal op) s = .next { s with fault := some { op := op, addr := s.pc - 1 } }

/-! ### The bus -/

/-- 20_memory.md R62: `Bus.read`. -/
def Obligations.BusReadDecodesTheAddress : Prop :=
  ∀ (s : State) (w : Addr), s.read w =
    if w.toNat ≤ 0x1FFF then s.ram.read (w &&& 0x07FF).toNat
    else if 0x8000 ≤ w.toNat then s.cart.prg.read ((w.toNat - 0x8000) % (s.cart.prgBanks * 16384))
    else 0x00

/-- 20_memory.md R64: the four addresses of a RAM byte. -/
def Obligations.RamMirrorsNameOneByte : Prop :=
  ∀ (s : State) (w : Addr), w.toNat < 0x0800 →
    s.read w = s.ram.read w.toNat ∧ s.read (w + 0x0800) = s.read w ∧
    s.read (w + 0x1000) = s.read w ∧ s.read (w + 0x1800) = s.read w

/-- A write to the RAM window is seen through every mirror of its byte and through no other address, and changes no
register (20_memory.md R63, R65). -/
def Obligations.WriteReachesItsRamByteAlone : Prop :=
  ∀ (s : State) (u w : Addr) (v : Byte), u.toNat ≤ 0x1FFF →
    (s.write u v).read (u ^^^ 0x0800) = v ∧
    (w.toNat ≤ 0x1FFF → w.toNat % 2048 = u.toNat % 2048 → (s.write u v).read w = v) ∧
    (¬ (w.toNat ≤ 0x1FFF ∧ w.toNat % 2048 = u.toNat % 2048) → (s.write u v).read w = s.read w) ∧
    { s.write u v with ram := s.ram } = s

/-- 20_memory.md R68: a write into the cartridge region changes no state, and a store to it completes. -/
def Obligations.CartridgeWritesAreDiscarded : Prop :=
  ∀ (s : State) (w : Addr) (v : Byte), 0x8000 ≤ w.toNat →
    s.write w v = s ∧
    ∀ m : MemOperand, effAddr m s = w →
      exec (.sta m) s = .next s ∧ exec (.stx m) s = .next s ∧ exec (.sty m) s = .next s

/-- One 16 KiB bank shows twice in the window, two banks once, and with more only PRG[0..0x7FFF] is reachable
(the consequences 20_memory.md R66 derives). -/
def Obligations.ProgramStorageWrapsInItsWindow : Prop :=
  ∀ (s : State) (w : Addr), 0x8000 ≤ w.toNat →
    (s.cart.prgBanks = 1 → s.read w = s.cart.prg.read (w.toNat % 0x4000)) ∧
    (s.cart.prgBanks = 1 → w.toNat < 0xC000 → s.read (w + 0x4000) = s.read w) ∧
    (2 ≤ s.cart.prgBanks → s.read w = s.cart.prg.read (w.toNat - 0x8000))

/-! ### Reset and the cartridge -/

/-- Construction (70_reset_and_hazards.md R340, 10_state.md R52): for every choice of the parameters and every loaded
cartridge, the registers hold the parameters, I is 1, the vector comes from the cartridge (R341), no fault is recorded. -/
def Obligations.ConstructionSetsTheResetValues : Prop :=
  ∀ (cfg : Config) (r : ResetParams) (cart : Cartridge), cart.wf = true →
    (State.construct cfg r cart).pc = word (cart.prg.read (0x7FFD % cart.prgLen)) (cart.prg.read (0x7FFC % cart.prgLen)) ∧
    (State.construct cfg r cart).sp = r.sp ∧ (State.construct cfg r cart).a = r.a ∧
    (State.construct cfg r cart).x = r.x ∧ (State.construct cfg r cart).y = r.y ∧
    (State.construct cfg r cart).p = { n := r.n, v := r.v, d := r.d, i := true, z := r.z, c := r.c } ∧
    (State.construct cfg r cart).ram = r.ramInit ∧ (State.construct cfg r cart).cart = cart ∧
    (State.construct cfg r cart).fault = none ∧ (State.construct cfg r cart).cfg = cfg

/-- 70_reset_and_hazards.md R342. -/
def Obligations.ResetVectorExampleGivesPc8000 : Prop :=
  ∀ (cfg : Config) (r : ResetParams) (cart : Cartridge),
    (State.construct cfg r cart).read 0xFFFC = 0x00 → (State.construct cfg r cart).read 0xFFFD = 0x80 →
    (State.construct cfg r cart).pc = 0x8000

/-- The load round trip (70_reset_and_hazards.md R353). Where the bank count, the trainer flag and the slice stand (byte 4,
byte 6 bit 2, offset 16 or 528: R350, R351) is the spec's decision D15 (log entry 12). -/
def Obligations.CartridgeLoadRoundTrip : Prop :=
  ∀ (bytes : List Byte) (c : Cartridge), Cartridge.load bytes = .ok c →
    c.prgBanks = (bytes.getD 4 0).toNat ∧ c.prgLen = (bytes.getD 4 0).toNat * 16384 ∧
    ∀ j, j < c.prgLen →
      16 + (if (bytes.getD 6 0).getLsbD 2 then 512 else 0) + j < bytes.length ∧
      c.prg.read j = bytes.getD (16 + (if (bytes.getD 6 0).getLsbD 2 then 512 else 0) + j) 0

/-- When the load fails (70_reset_and_hazards.md R352; that CHR counts and that zero banks are rejected are the spec's
decisions D15 and D17), and otherwise what the cartridge holds beside its program bytes (R350, R351). -/
def Obligations.CartridgeLoadFailsExactlyOnBadImages : Prop :=
  ∀ bytes : List Byte,
    ((bytes.take 4 ≠ [0x4E, 0x45, 0x53, 0x1A] ∨ bytes.length < 16 ∨ (bytes.getD 4 0).toNat = 0 ∨
      bytes.length < 16 + (if (bytes.getD 6 0).getLsbD 2 then 512 else 0) + (bytes.getD 4 0).toNat * 16384 +
        (bytes.getD 5 0).toNat * 8192) → Cartridge.load bytes = .error .formatError) ∧
    (¬ (bytes.take 4 ≠ [0x4E, 0x45, 0x53, 0x1A] ∨ bytes.length < 16 ∨ (bytes.getD 4 0).toNat = 0 ∨
      bytes.length < 16 + (if (bytes.getD 6 0).getLsbD 2 then 512 else 0) + (bytes.getD 4 0).toNat * 16384 +
        (bytes.getD 5 0).toNat * 8192) →
      ∃ c, Cartridge.load bytes = .ok c ∧ c.wf = true ∧
        c.chrBanks = (bytes.getD 5 0).toNat ∧
        c.mapper = ((bytes.getD 7 0) &&& 0xF0) ||| ((bytes.getD 6 0) >>> 4) ∧
        (c.mirroring = .vertical ↔ (bytes.getD 6 0).getLsbD 0 = true) ∧
        ∀ j, j < (bytes.getD 5 0).toNat * 8192 → c.chr.read j =
          bytes.getD (16 + (if (bytes.getD 6 0).getLsbD 2 then 512 else 0) + (bytes.getD 4 0).toNat * 16384 + j) 0)

/-! ### Invariants -/

/-- Every step keeps a legal state legal: RAM in canonical form within its 2048 bytes, a cartridge as a load leaves it,
and a fault record that names the byte just before PC. -/
def Obligations.EveryStepKeepsTheStateLegal : Prop :=
  ∀ s t : State, s.legal = true → step s = .next t → t.legal = true

/-- The reset state is legal. -/
def Obligations.ResetStateIsLegal : Prop := State.reset.legal = true

/-- A machine constructed over a loaded image stays legal however many steps run, its cartridge never changes, and what
it reads in the cartridge window never changes (10_state.md R48, 20_memory.md R83). -/
def Obligations.LoadedMachineStaysLegalAndKeepsItsProgram : Prop :=
  ∀ (bytes : List Byte) (cart : Cartridge) (cfg : Config) (r : ResetParams) (n : Nat) (t : State),
    Cartridge.load bytes = .ok cart → Memory.wf 2048 r.ramInit = true →
    runSteps n (State.construct cfg r cart) = some t →
    t.legal = true ∧ t.cart = cart ∧
    ∀ w : Addr, 0x8000 ≤ w.toNat → t.read w = (State.construct cfg r cart).read w

/-! ### Frames: what an instruction leaves unchanged -/

/-- Every register keeps its value but for the writers the spec lists (10_state.md R31 to R35), the cartridge and the
parameters always, the fault record unless the instruction raises IllegalOpcode. -/
def Obligations.RegistersChangeOnlyByTheirListedWriters : Prop :=
  ∀ (i : Instr) (s t : State), exec i s = .next t →
    (writesA i = false → t.a = s.a) ∧ (writesX i = false → t.x = s.x) ∧ (writesY i = false → t.y = s.y) ∧
    (writesSp i = false → t.sp = s.sp) ∧ (writesPc i = false → raises s.cfg i = false → t.pc = s.pc) ∧
    t.cart = s.cart ∧ t.cfg = s.cfg ∧ (raises s.cfg i = false → t.fault = s.fault)

/-- 10_state.md R45, with the table of R44: a flag that an instruction's rule does not write keeps its value. -/
def Obligations.UnlistedFlagsKeepTheirValue : Prop :=
  ∀ (i : Instr) (s t : State), exec i s = .next t →
    ((flagRow i).n = false → t.p.n = s.p.n) ∧ ((flagRow i).v = false → t.p.v = s.p.v) ∧
    ((flagRow i).d = false → t.p.d = s.p.d) ∧ ((flagRow i).i = false → t.p.i = s.p.i) ∧
    ((flagRow i).z = false → t.p.z = s.p.z) ∧ ((flagRow i).c = false → t.p.c = s.p.c)

/-- Every byte of memory keeps its value but for the RAM bytes an instruction stores to (each with its mirrors,
20_memory.md R64); an instruction that stores nothing changes no byte. -/
def Obligations.MemoryChangesOnlyAtTheStoredBytes : Prop :=
  ∀ (i : Instr) (s t : State) (w : Addr), exec i s = .next t →
    (∀ u ∈ storedAddrs s i, sameRamByte u w = false) → t.read w = s.read w

/-- For every instruction but PHP and BRK, which push them: the value of I changes no execution under any configuration
(10_state.md R40), nor does D with DECIMAL_MODE = false (R41, the spec's decision D3). From two states that differ in that
flag alone an instruction leads to states that differ in it alone, and not even there if it writes it. -/
def Obligations.FlagsIAndDChangeNoExecution : Prop :=
  ∀ (i : Instr) (s t : State) (b : Bool), i ≠ .php → i ≠ .brk → exec i s = .next t →
    exec i { s with p := { s.p with i := b } } =
      .next { t with p := { t.p with i := if (flagRow i).i then t.p.i else b } } ∧
    (s.cfg.decimalMode = false → exec i { s with p := { s.p with d := b } } =
      .next { t with p := { t.p with d := if (flagRow i).d then t.p.d else b } })

/-- PHP and BRK read I and D for the copy of P they push alone, under every configuration (10_state.md R40, R41): from two
states that differ in those flags they lead to states that differ in the pushed byte and in the flags they do not write. -/
def Obligations.PhpAndBrkReadIAndDForThePushedCopyAlone : Prop :=
  ∀ (i : Instr) (s t : State) (b e : Bool), (i = .php ∨ i = .brk) → exec i s = .next t →
    ∃ u, exec i { s with p := { s.p with i := b, d := e } } = .next u ∧
      u = { t with p := { t.p with i := if (flagRow i).i then t.p.i else b, d := e }, ram := u.ram } ∧
      u.read (stackAddr (t.sp + 1)) = ({ s.p with i := b, d := e } : Status).pushed ∧
      ∀ w : Addr, sameRamByte (stackAddr (t.sp + 1)) w = false → u.read w = t.read w

/-! ### Addressing -/

/-- The effective addresses of 40_step_and_addressing.md R138 to R144 as numbers (IndirectY's is stated with the page cross). -/
def Obligations.EffectiveAddressesWrapAsTheModesSay : Prop :=
  ∀ (s : State) (z : Byte) (w : Addr),
    (effAddr (.zp z) s).toNat = z.toNat ∧
    (effAddr (.zpX z) s).toNat = (z.toNat + s.x.toNat) % 256 ∧
    (effAddr (.zpY z) s).toNat = (z.toNat + s.y.toNat) % 256 ∧
    effAddr (.abs w) s = w ∧
    (effAddr (.absX w) s).toNat = (w.toNat + s.x.toNat) % 65536 ∧
    (effAddr (.absY w) s).toNat = (w.toNat + s.y.toNat) % 65536 ∧
    (effAddr (.indX z) s).toNat =
      (s.read (word 0 (z + s.x + 1))).toNat * 256 + (s.read (word 0 (z + s.x))).toNat

/-- `crossed` is the carry out of the low byte, in AbsoluteX, AbsoluteY and IndirectY alone (40_step_and_addressing.md
R137); IndirectY adds Y to its zero-page pointer modulo 65536 (R145; that the pointer's high byte wraps in the zero page is
the spec's decision D11). -/
def Obligations.PageCrossIsTheCarryOfTheLowByte : Prop :=
  ∀ (s : State) (z : Byte) (w : Addr),
    (crossed (.absX w) s = true ↔ 256 ≤ w.toNat % 256 + s.x.toNat) ∧
    (crossed (.absY w) s = true ↔ 256 ≤ w.toNat % 256 + s.y.toNat) ∧
    (crossed (.indY z) s = true ↔ 256 ≤ (s.read (word 0 z)).toNat + s.y.toNat) ∧
    (effAddr (.indY z) s).toNat =
      ((s.read (word 0 (z + 1))).toNat * 256 + (s.read (word 0 z)).toNat + s.y.toNat) % 65536 ∧
    crossed (.zp z) s = false ∧ crossed (.zpX z) s = false ∧ crossed (.zpY z) s = false ∧
    crossed (.abs w) s = false ∧ crossed (.indX z) s = false

/-- A branch target is the fall-through address plus the signed offset, modulo 65536 (40_step_and_addressing.md R149). -/
def Obligations.BranchTargetAddsTheSignedOffset : Prop :=
  ∀ (fall : Addr) (off : Byte),
    ((branchTarget fall off).toNat : Int) = ((fall.toNat : Int) + off.toInt) % 65536

/-! ### Loads, stores, transfers -/

/-- 41_load_store_transfer.md R160 to R162: LDA, LDX, LDY. -/
def Obligations.LoadsCopyTheOperandAndSetNZ : Prop :=
  ∀ o : ReadOperand,
    HasForm (.lda o) o.bytes (readCrossed o) (accForms 0xA9 0xA5 0xB5 0xAD 0xBD 0xB9 0xA1 0xB1 o) ∧
    HasForm (.ldx o) o.bytes (readCrossed o) (ldxForms o) ∧
    HasForm (.ldy o) o.bytes (readCrossed o) (ldyForms o) ∧
    ∀ s : State,
      exec (.lda o) s = .next { s with a := readValue o s, p := nz s.p (readValue o s) } ∧
      exec (.ldx o) s = .next { s with x := readValue o s, p := nz s.p (readValue o s) } ∧
      exec (.ldy o) s = .next { s with y := readValue o s, p := nz s.p (readValue o s) }

/-- 41_load_store_transfer.md R163 to R165: STA, STX, STY write one byte at the effective address and nothing else. -/
def Obligations.StoresWriteTheRegisterAtTheEffectiveAddress : Prop :=
  ∀ m : MemOperand,
    HasForm (.sta m) m.bytes (crossed m) (staForms m) ∧
    HasForm (.stx m) m.bytes (crossed m) (stxForms m) ∧
    HasForm (.sty m) m.bytes (crossed m) (styForms m) ∧
    ∀ s : State,
      exec (.sta m) s = .next (s.write (effAddr m s) s.a) ∧
      exec (.stx m) s = .next (s.write (effAddr m s) s.x) ∧
      exec (.sty m) s = .next (s.write (effAddr m s) s.y)

/-- 41_load_store_transfer.md R166 to R171: the register transfers; TXS alone sets no flag. -/
def Obligations.TransfersCopyTheRegister : Prop :=
  (Implied .tax 0xAA 2 ∧ Implied .tay 0xA8 2 ∧ Implied .txa 0x8A 2 ∧
   Implied .tya 0x98 2 ∧ Implied .tsx 0xBA 2 ∧ Implied .txs 0x9A 2) ∧
  ∀ s : State,
    exec .tax s = .next { s with x := s.a, p := nz s.p s.a } ∧
    exec .tay s = .next { s with y := s.a, p := nz s.p s.a } ∧
    exec .txa s = .next { s with a := s.x, p := nz s.p s.x } ∧
    exec .tya s = .next { s with a := s.y, p := nz s.p s.y } ∧
    exec .tsx s = .next { s with x := s.sp, p := nz s.p s.sp } ∧
    exec .txs s = .next { s with sp := s.x }

/-! ### The stack -/

/-- 42_stack.md R190 to R193: PHA, PHP, PLA, PLP. The stack page is the spec's decision D9, the bits B and U of a pushed
and a pulled byte its decision D4. -/
def Obligations.StackInstructionsPushAndPull : Prop :=
  (Implied .pha 0x48 3 ∧ Implied .php 0x08 3 ∧ Implied .pla 0x68 4 ∧ Implied .plp 0x28 4) ∧
  ∀ s : State,
    exec .pha s = .next { s.write (0x0100 + zext16 s.sp) s.a with sp := s.sp - 1 } ∧
    exec .php s = .next { s.write (0x0100 + zext16 s.sp) (s.p.toByte ||| 0x30) with sp := s.sp - 1 } ∧
    exec .pla s = .next { s with
      a := s.read (0x0100 + zext16 (s.sp + 1)), sp := s.sp + 1
      p := nz s.p (s.read (0x0100 + zext16 (s.sp + 1))) } ∧
    ∀ t : Byte, t = s.read (0x0100 + zext16 (s.sp + 1)) →
      exec .plp s = .next { s with
        sp := s.sp + 1
        p := { n := t.getLsbD 7, v := t.getLsbD 6, d := t.getLsbD 3, i := t.getLsbD 2, z := t.getLsbD 1, c := t.getLsbD 0 } }

/-- A byte pushed is the byte the next pull gives, SP is back, and no register and no byte but the one stack byte (and
its mirrors) changes (20_memory.md R73 to R75). -/
def Obligations.PullAfterPushGivesTheByteBack : Prop :=
  ∀ (s : State) (v : Byte) (w : Addr),
    (stackAddr s.sp).toNat = 0x0100 + s.sp.toNat ∧ (s.push v).pulled = v ∧
    { (s.push v).afterPull with ram := s.ram } = s ∧
    (sameRamByte (stackAddr s.sp) w = false → (s.push v).read w = s.read w)

/-- A read of P has U = 1 and B = 0, a pushed copy has both set, a pulled byte loses its bits 5 and 4, and pulling the
pushed copy gives P back (10_state.md R36, R37; the spec's decision D4). -/
def Obligations.StatusByteHasFixedBitsFourAndFive : Prop :=
  ∀ (p : Status) (t : Byte),
    p.toByte &&& 0x30 = 0x20 ∧ p.pushed = p.toByte ||| 0x30 ∧ (Status.ofPulled t).toByte = (t &&& 0xCF) ||| 0x20 ∧
    Status.ofPulled p.toByte = p ∧ Status.ofPulled p.pushed = p ∧
    p.toByte.toNat = p.n.toNat * 128 + p.v.toNat * 64 + 32 + p.d.toNat * 8 + p.i.toNat * 4 + p.z.toNat * 2 + p.c.toNat

/-! ### Arithmetic and logic -/

/-- 43_arith_logic.md R200, by which ADC adds outside decimal mode: t = A + M + C, A and its N and Z from t mod 256, C
the unsigned carry out, V the formula of the rule. ADC has the eight forms of R205. -/
def Obligations.AdcAddsWithCarry : Prop :=
  ∀ o : ReadOperand,
    HasForm (.adc o) o.bytes (readCrossed o) (accForms 0x69 0x65 0x75 0x6D 0x7D 0x79 0x61 0x71 o) ∧
    ∀ (s : State) (m r : Byte) (t : Nat), decimal s = false → m = readValue o s →
      t = s.a.toNat + m.toNat + s.p.c.toNat → r = BitVec.ofNat 8 t →
      exec (.adc o) s = .next { s with
        a := r
        p := { s.p with n := r.getLsbD 7, v := ((s.a ^^^ r) &&& (m ^^^ r) &&& 0x80) != 0,
                        z := decide (r = 0), c := decide (t > 0xFF) } }

/-- Outside decimal mode ADC's V is set exactly when the signed sum leaves -128..127, its C exactly when the unsigned
sum leaves 0..255, and its result is the sum modulo 256 (what 43_arith_logic.md R200 says its formulas mean). -/
def Obligations.AdcFlagsAreTheRangeTests : Prop :=
  ∀ (o : ReadOperand) (s : State), decimal s = false →
    ∃ t, exec (.adc o) s = .next t ∧
      t.a.toNat = (s.a.toNat + (readValue o s).toNat + s.p.c.toNat) % 256 ∧
      (t.p.c = true ↔ 255 < s.a.toNat + (readValue o s).toNat + s.p.c.toNat) ∧
      (t.p.v = true ↔
        s.a.toInt + (readValue o s).toInt + s.p.c.toNat < -128 ∨ 127 < s.a.toInt + (readValue o s).toInt + s.p.c.toNat)

/-- Outside decimal mode SBC computes A - M - (1 - C): C = 1 means no borrow, V that the signed difference leaves
-128..127, N and Z come from the result (43_arith_logic.md R206 with R200). SBC has the eight forms of R206. -/
def Obligations.SbcSubtractsWithBorrow : Prop :=
  ∀ o : ReadOperand,
    HasForm (.sbc o) o.bytes (readCrossed o) (accForms 0xE9 0xE5 0xF5 0xED 0xFD 0xF9 0xE1 0xF1 o) ∧
    ∀ (s : State) (m r : Byte) (b : Nat), decimal s = false → m = readValue o s → b = 1 - s.p.c.toNat →
      r = BitVec.ofInt 8 ((s.a.toNat : Int) - m.toNat - b) →
      exec (.sbc o) s = .next { s with a := r, p := sbcFlags s m r b }

/-- In decimal mode (DECIMAL_MODE and D both set) ADC and SBC follow the NMOS algorithms of 43_arith_logic.md R201 and
R202, which are the spec's decision D3: nibble by nibble, ADC's Z from the binary sum, its N and V from before the high
correction, SBC's four flags those of the binary subtraction. -/
def Obligations.DecimalModeFollowsTheNmosAlgorithm : Prop :=
  (∀ (o : ReadOperand) (s : State) (m : Byte) (l lo t u : Nat) (g : Int), decimal s = true → m = readValue o s →
    l = s.a.toNat % 16 + m.toNat % 16 + s.p.c.toNat →
    lo = (if 10 ≤ l then (l + 6) % 16 + 16 else l) →
    t = s.a.toNat / 16 * 16 + m.toNat / 16 * 16 + lo →
    g = (s.a &&& 0xF0).toInt + (m &&& 0xF0).toInt + lo →
    u = (if 160 ≤ t then t + 96 else t) →
    exec (.adc o) s = .next { s with
      a := BitVec.ofNat 8 u
      p := { s.p with n := t.testBit 7, v := decide (g < -128 ∨ 127 < g),
                      z := decide ((s.a.toNat + m.toNat + s.p.c.toNat) % 256 = 0), c := decide (256 ≤ u) } }) ∧
  (∀ (o : ReadOperand) (s : State) (m r : Byte) (b : Nat) (l lo t u : Int), decimal s = true → m = readValue o s →
    b = 1 - s.p.c.toNat → r = BitVec.ofInt 8 ((s.a.toNat : Int) - m.toNat - b) →
    l = ((s.a.toNat % 16 : Nat) : Int) - (m.toNat % 16 : Nat) - b →
    lo = (if l < 0 then (l - 6) % 16 - 16 else l) →
    t = ((s.a.toNat / 16 * 16 : Nat) : Int) - (m.toNat / 16 * 16 : Nat) + lo →
    u = (if t < 0 then t - 96 else t) →
    exec (.sbc o) s = .next { s with a := BitVec.ofInt 8 u, p := sbcFlags s m r b })

/-- On decimal digits, decimal ADC gives the decimal sum modulo 100 with C its carry, and decimal SBC the decimal
difference modulo 100 with C = 1 for no borrow (what the algorithms of 43_arith_logic.md R201 and R202, the spec's
decision D3, are for). -/
def Obligations.DecimalModeIsExactOnDigits : Prop :=
  ∀ (o : ReadOperand) (s : State), decimal s = true → isBcd s.a → isBcd (readValue o s) →
    (∃ t, exec (.adc o) s = .next t ∧ isBcd t.a ∧
      bcdValue t.a = (bcdValue s.a + bcdValue (readValue o s) + s.p.c.toNat) % 100 ∧
      (t.p.c = true ↔ 100 ≤ bcdValue s.a + bcdValue (readValue o s) + s.p.c.toNat)) ∧
    (∃ t, exec (.sbc o) s = .next t ∧ isBcd t.a ∧
      bcdValue t.a = (bcdValue s.a + 100 - bcdValue (readValue o s) - (1 - s.p.c.toNat)) % 100 ∧
      (t.p.c = true ↔ bcdValue (readValue o s) + (1 - s.p.c.toNat) ≤ bcdValue s.a))

/-- 43_arith_logic.md R207 to R209: AND, ORA, EOR. -/
def Obligations.LogicalsCombineWithTheAccumulator : Prop :=
  ∀ o : ReadOperand,
    HasForm (.and o) o.bytes (readCrossed o) (accForms 0x29 0x25 0x35 0x2D 0x3D 0x39 0x21 0x31 o) ∧
    HasForm (.ora o) o.bytes (readCrossed o) (accForms 0x09 0x05 0x15 0x0D 0x1D 0x19 0x01 0x11 o) ∧
    HasForm (.eor o) o.bytes (readCrossed o) (accForms 0x49 0x45 0x55 0x4D 0x5D 0x59 0x41 0x51 o) ∧
    ∀ s : State,
      exec (.and o) s = .next { s with a := s.a &&& readValue o s, p := nz s.p (s.a &&& readValue o s) } ∧
      exec (.ora o) s = .next { s with a := s.a ||| readValue o s, p := nz s.p (s.a ||| readValue o s) } ∧
      exec (.eor o) s = .next { s with a := s.a ^^^ readValue o s, p := nz s.p (s.a ^^^ readValue o s) }

/-- 43_arith_logic.md R210: BIT. -/
def Obligations.BitTestsTheOperand : Prop :=
  ∀ m : MemOperand, HasForm (.bit m) m.bytes (crossed m) (bitForms m) ∧
    ∀ s : State, exec (.bit m) s = .next { s with
      p := { s.p with z := decide (s.a &&& s.read (effAddr m s) = 0), n := (s.read (effAddr m s)).getLsbD 7,
                      v := (s.read (effAddr m s)).getLsbD 6 } }

/-- 43_arith_logic.md R203 and R211 to R213: CMP, CPX, CPY. C is the unsigned comparison, Z equality, N bit 7 of the
difference; the register, V and everything else is kept. -/
def Obligations.ComparesSetCarryZeroAndNegative : Prop :=
  ∀ o : ReadOperand,
    HasForm (.cmp o) o.bytes (readCrossed o) (accForms 0xC9 0xC5 0xD5 0xCD 0xDD 0xD9 0xC1 0xD1 o) ∧
    HasForm (.cpx o) o.bytes (readCrossed o) (indexCompareForms 0xE0 0xE4 0xEC o) ∧
    HasForm (.cpy o) o.bytes (readCrossed o) (indexCompareForms 0xC0 0xC4 0xCC o) ∧
    ∀ (s : State) (m : Byte), m = readValue o s →
      exec (.cmp o) s = .next { s with p := { s.p with
        c := decide (s.a.toNat ≥ m.toNat), z := decide (s.a = m), n := (s.a - m).getLsbD 7 } } ∧
      exec (.cpx o) s = .next { s with p := { s.p with
        c := decide (s.x.toNat ≥ m.toNat), z := decide (s.x = m), n := (s.x - m).getLsbD 7 } } ∧
      exec (.cpy o) s = .next { s with p := { s.p with
        c := decide (s.y.toNat ≥ m.toNat), z := decide (s.y = m), n := (s.y - m).getLsbD 7 } }

/-- 43_arith_logic.md R214, R215: INC and DEC write back one byte; N and Z come from the result even where the write is
discarded. -/
def Obligations.IncAndDecWriteBackOneByte : Prop :=
  ∀ m : MemOperand,
    HasForm (.inc m) m.bytes (crossed m) (rmwForms 0xE6 0xEE 0xF6 0xFE m) ∧
    HasForm (.dec m) m.bytes (crossed m) (rmwForms 0xC6 0xCE 0xD6 0xDE m) ∧
    ∀ (s : State) (v : Byte), v = s.read (effAddr m s) →
      exec (.inc m) s = .next { s.write (effAddr m s) (v + 1) with p := nz s.p (v + 1) } ∧
      exec (.dec m) s = .next { s.write (effAddr m s) (v - 1) with p := nz s.p (v - 1) }

/-- 43_arith_logic.md R216 to R219: INX, INY, DEX, DEY. -/
def Obligations.IndexStepsWrapAndSetNZ : Prop :=
  (Implied .inx 0xE8 2 ∧ Implied .iny 0xC8 2 ∧ Implied .dex 0xCA 2 ∧ Implied .dey 0x88 2) ∧
  ∀ s : State,
    exec .inx s = .next { s with x := s.x + 1, p := nz s.p (s.x + 1) } ∧
    exec .iny s = .next { s with y := s.y + 1, p := nz s.p (s.y + 1) } ∧
    exec .dex s = .next { s with x := s.x - 1, p := nz s.p (s.x - 1) } ∧
    exec .dey s = .next { s with y := s.y - 1, p := nz s.p (s.y - 1) }

/-! ### Shifts and rotates -/

/-- 44_shift_rotate.md R241 to R244: ASL, LSR, ROL, ROR on A or on a memory byte. The result as a number, C the bit
shifted out, N and Z from the result, nothing else changed but the operand. -/
def Obligations.ShiftsMoveEveryBitByOne : Prop :=
  ∀ o : ShiftOperand,
    HasForm (.asl o) o.bytes (fun _ => false) (shiftForms 0x0A 0x06 0x0E 0x16 0x1E o) ∧
    HasForm (.lsr o) o.bytes (fun _ => false) (shiftForms 0x4A 0x46 0x4E 0x56 0x5E o) ∧
    HasForm (.rol o) o.bytes (fun _ => false) (shiftForms 0x2A 0x26 0x2E 0x36 0x3E o) ∧
    HasForm (.ror o) o.bytes (fun _ => false) (shiftForms 0x6A 0x66 0x6E 0x76 0x7E o) ∧
    ∀ (s : State) (v l r rl rr : Byte), v = shiftValue o s →
      l = BitVec.ofNat 8 (2 * v.toNat) → r = BitVec.ofNat 8 (v.toNat / 2) →
      rl = BitVec.ofNat 8 (2 * v.toNat + s.p.c.toNat) → rr = BitVec.ofNat 8 (v.toNat / 2 + 128 * s.p.c.toNat) →
      exec (.asl o) s = .next { writeShift o l s with p := { nz s.p l with c := v.getLsbD 7 } } ∧
      exec (.lsr o) s = .next { writeShift o r s with p := { nz s.p r with c := v.getLsbD 0 } } ∧
      exec (.rol o) s = .next { writeShift o rl s with p := { nz s.p rl with c := v.getLsbD 7 } } ∧
      exec (.ror o) s = .next { writeShift o rr s with p := { nz s.p rr with c := v.getLsbD 0 } }

/-- Nine ROLs of an operand return the pair (v, C) to its start, and so do nine RORs, and each undoes the other, in A and in
every memory form whose byte is in RAM (44_shift_rotate.md R243, R244; elsewhere the write is discarded, R240). -/
def Obligations.NineRotatesReturnToTheStart : Prop :=
  ∀ (o : ShiftOperand) (s : State), o.form = true → (∀ u ∈ shiftStores s o, u.toNat ≤ 0x1FFF) →
    (∃ t, execTimes (.rol o) 9 s = some t ∧ shiftValue o t = shiftValue o s ∧ t.p.c = s.p.c) ∧
    (∃ t, execTimes (.ror o) 9 s = some t ∧ shiftValue o t = shiftValue o s ∧ t.p.c = s.p.c) ∧
    (∃ t u, exec (.rol o) s = .next t ∧ exec (.ror o) t = .next u ∧
      shiftValue o u = shiftValue o s ∧ u.p.c = s.p.c) ∧
    (∃ t u, exec (.ror o) s = .next t ∧ exec (.rol o) t = .next u ∧
      shiftValue o u = shiftValue o s ∧ u.p.c = s.p.c)

/-! ### Control transfer -/

/-- 45_control.md R250 to R258: each branch is two bytes, tests its one flag, goes to the fall-through address plus the
sign-extended offset, writes nothing but PC, and costs 2, 3 or 4 cycles. -/
def Obligations.BranchesTestOneFlag : Prop :=
  ∀ (b : Byte → Instr) (op : Byte) (cond : State → Bool),
    (b, op, cond) ∈ ([(.bpl, 0x10, fun s => !s.p.n), (.bmi, 0x30, fun s => s.p.n), (.bvc, 0x50, fun s => !s.p.v),
      (.bvs, 0x70, fun s => s.p.v), (.bcc, 0x90, fun s => !s.p.c), (.bcs, 0xB0, fun s => s.p.c),
      (.bne, 0xD0, fun s => !s.p.z), (.beq, 0xF0, fun s => s.p.z)] : List ((Byte → Instr) × Byte × (State → Bool))) →
    ∀ (off : Byte) (s : State),
      encode (b off) = [op, off] ∧
      exec (b off) s = .next (if cond s then { s with pc := s.pc + sext16 off } else s) ∧
      cycles (b off) s = some (2 + (if cond s then 1 else 0) +
        (if cond s ∧ page (s.pc + sext16 off) ≠ page s.pc then 1 else 0))

/-- 45_control.md R260: JMP, Absolute and Indirect; the Indirect pointer's high byte comes from the pointer's own page. -/
def Obligations.JumpLoadsPcFromItsOperand : Prop :=
  (∀ w : Addr, encode (.jmp (.abs w)) = [0x4C, lo8 w, hi8 w] ∧ encode (.jmp (.ind w)) = [0x6C, lo8 w, hi8 w]) ∧
  ∀ (s : State) (w : Addr),
    cycles (.jmp (.abs w)) s = some 3 ∧ cycles (.jmp (.ind w)) s = some 5 ∧
    exec (.jmp (.abs w)) s = .next { s with pc := w } ∧
    exec (.jmp (.ind w)) s = .next { s with pc := word (s.read (word (hi8 w) (lo8 w + 1))) (s.read w) }

/-- 45_control.md R261: JSR pushes the address of its last byte, high byte first (the spec's decisions D9, D19, D27). -/
def Obligations.JsrPushesItsLastByteAddress : Prop :=
  ∀ (w : Addr) (s : State),
    encode (.jsr w) = [0x20, lo8 w, hi8 w] ∧ cycles (.jsr w) s = some 6 ∧
    exec (.jsr w) s = .next
      { (s.write (stackAddr s.sp) (hi8 (s.pc - 1))).write (stackAddr (s.sp - 1)) (lo8 (s.pc - 1)) with
        sp := s.sp - 2, pc := w }

/-- 45_control.md R262: RTS. -/
def Obligations.RtsReturnsOnePastThePulledAddress : Prop :=
  Implied .rts 0x60 6 ∧
  ∀ s : State, exec .rts s = .next { s with
    sp := s.sp + 2
    pc := word (s.read (stackAddr (s.sp + 2))) (s.read (stackAddr (s.sp + 1))) + 1 }

/-- RTS after JSR, whatever PC the subroutine ends at, returns to the instruction after the JSR with every register as
it was (45_control.md R261, R262). -/
def Obligations.RtsUndoesJsr : Prop :=
  ∀ (w q : Addr) (s t : State), exec (.jsr w) s = .next t →
    ∃ u, exec .rts (t.setPc q) = .next u ∧ { u with ram := s.ram } = s

/-- 45_control.md R263 and 60_exceptions.md R311: BRK, the one vectored entry (the spec's decision D12). -/
def Obligations.BrkTakesTheVectoredEntry : Prop :=
  Implied .brk 0x00 7 ∧
  ∀ s : State, exec .brk s = .next
    { ((s.write (stackAddr s.sp) (hi8 (s.pc + 1))).write (stackAddr (s.sp - 1)) (lo8 (s.pc + 1))).write
        (stackAddr (s.sp - 2)) (s.p.toByte ||| 0x30) with
      sp := s.sp - 3, p := { s.p with i := true }, pc := word (s.read 0xFFFF) (s.read 0xFFFE) }

/-- 45_control.md R264 and 60_exceptions.md R312: RTI restores P without bits 5 and 4 (the spec's decision D4), then PC. -/
def Obligations.RtiRestoresStatusAndPc : Prop :=
  Implied .rti 0x40 6 ∧
  ∀ (s : State) (t : Byte), t = s.read (stackAddr (s.sp + 1)) → exec .rti s = .next { s with
    sp := s.sp + 3
    p := { n := t.getLsbD 7, v := t.getLsbD 6, d := t.getLsbD 3, i := t.getLsbD 2, z := t.getLsbD 1, c := t.getLsbD 0 }
    pc := word (s.read (stackAddr (s.sp + 3))) (s.read (stackAddr (s.sp + 2))) }

/-- RTI after BRK, whatever PC and flags the handler ends with, returns past the byte after the BRK with every register
and every flag as it was (45_control.md R263, R264). -/
def Obligations.RtiUndoesBrk : Prop :=
  ∀ (q : Addr) (p : Status) (s t : State), exec .brk s = .next t →
    ∃ u, exec .rti ((t.setPc q).setP p) = .next u ∧ { u with ram := s.ram } = { s with pc := s.pc + 1 }

/-! ### Flag instructions and NOPs -/

/-- 46_flag_nop.md R280 to R287: each flag instruction writes its one flag; NOP nothing. -/
def Obligations.FlagInstructionsWriteOneFlag : Prop :=
  (Implied .clc 0x18 2 ∧ Implied .sec 0x38 2 ∧ Implied .cli 0x58 2 ∧ Implied .sei 0x78 2 ∧
   Implied .cld 0xD8 2 ∧ Implied .sed 0xF8 2 ∧ Implied .clv 0xB8 2 ∧ Implied .nop 0xEA 2) ∧
  ∀ s : State,
    exec .clc s = .next { s with p := { s.p with c := false } } ∧
    exec .sec s = .next { s with p := { s.p with c := true } } ∧
    exec .cli s = .next { s with p := { s.p with i := false } } ∧
    exec .sei s = .next { s with p := { s.p with i := true } } ∧
    exec .cld s = .next { s with p := { s.p with d := false } } ∧
    exec .sed s = .next { s with p := { s.p with d := true } } ∧
    exec .clv s = .next { s with p := { s.p with v := false } } ∧
    exec .nop s = .next s

/-- 46_flag_nop.md R288 to R293: the bytes, lengths and cycle counts of the undocumented NOPs; under UNDOC_NOP_EXEC =
true they change nothing beyond PC; with false each raises IllegalOpcode at its own opcode byte (log entries 8 and 11). -/
def Obligations.UndocumentedNopsFollowThePolicy : Prop :=
  ((∀ op ∈ nopImpBytes, Implied (.nopImp op) op 2) ∧
   (∀ op ∈ nopImmBytes, ∀ v, HasForm (.nopImm op v) [v] (fun _ => false) (some ⟨op, 2, false⟩)) ∧
   (∀ op ∈ nopZpBytes, ∀ z, HasForm (.nopZp op z) [z] (fun _ => false) (some ⟨op, 3, false⟩)) ∧
   (∀ op ∈ nopZpXBytes, ∀ z, HasForm (.nopZpX op z) [z] (fun _ => false) (some ⟨op, 4, false⟩)) ∧
   (∀ w, HasForm (.nopAbs w) [lo8 w, hi8 w] (fun _ => false) (some ⟨0x0C, 4, false⟩)) ∧
   (∀ op ∈ nopAbsXBytes, ∀ w, HasForm (.nopAbsX op w) [lo8 w, hi8 w] (crossed (.absX w)) (some ⟨op, 4, true⟩))) ∧
  ∀ (op v : Byte) (w : Addr) (i : Instr) (n : Addr),
    (i, n) ∈ ([(.nopImp op, 1), (.nopImm op v, 2), (.nopZp op v, 2), (.nopZpX op v, 2), (.nopAbsX op w, 3)] :
      List (Instr × Addr)) ∨ (i, op, n) = (.nopAbs w, 0x0C, 3) →
    ∀ s : State,
      (s.cfg.undocNopExec = true → exec i s = .next s) ∧
      (s.cfg.undocNopExec = false → exec i s = .next
        { s with pc := s.pc - n + 1, fault := some { op := op, addr := s.pc - n } })

/-! ### Cycle counts and the interface -/

/-- The page-cross penalty applies to exactly the 29 listed opcodes (70_reset_and_hazards.md R361, the spec's decision D21). -/
def Obligations.PageCrossPenaltyIsTheListedBytes : Prop :=
  ∀ op : Byte, pageCrossPenalty op = true ↔ op ∈ pageCrossBytes

/-- What `step()` returns agrees with what it does: Ok with 2 to 7 cycles when no fault is recorded after it, the error
when one is (40_step_and_addressing.md R130, 70_reset_and_hazards.md R360, R362; log entries 8 and 9). -/
def Obligations.StepResultAgreesWithTheStep : Prop :=
  ∀ s t : State, step s = .next t →
    (t.fault = none ∧ ∃ n, stepResult s = some (.ok n) ∧ 2 ≤ n ∧ n ≤ 7) ∨
    (t.fault = some { op := s.read s.pc, addr := s.pc } ∧ stepResult s = some (.illegalOpcode (s.read s.pc) s.pc))

/-- An instruction's word placed by `withFetchWord` is what the very next step runs (log entry 7). -/
def Obligations.PlacedWordIsTheNextInstruction : Prop :=
  ∀ (s : State) (nbits w : Nat) (i : Instr), s.cart.wf = true → decodeTableWord nbits w = some i →
    step (s.withFetchWord nbits w) =
      exec i ((s.withFetchWord nbits w).setPc ((s.withFetchWord nbits w).pc + BitVec.ofNat 16 (instrLength i)))

end
end

