-- ==== Sys2Proof/Laws/Bits.lean ====
section
/-! SUPPORT. The small lemmas of the bit helpers. -/

namespace Sys2Proof

theorem word_toNat (hi lo : Byte) : (word hi lo).toNat = hi.toNat * 256 + lo.toNat := by
  have h := lo.isLt
  have : (word hi lo).toNat = hi.toNat <<< 8 ||| lo.toNat := BitVec.toNat_append hi lo
  rw [this, ← Nat.shiftLeft_add_eq_or_of_lt h, Nat.shiftLeft_eq]

theorem lo8_toNat (w : Addr) : (lo8 w).toNat = w.toNat % 256 := by simp [lo8]

theorem hi8_toNat (w : Addr) : (hi8 w).toNat = w.toNat / 256 := by
  have h := w.isLt
  simp only [hi8, BitVec.extractLsb'_toNat, Nat.shiftRight_eq_div_pow]
  omega

@[simp] theorem lo8_word (hi lo : Byte) : lo8 (word hi lo) = lo := by
  apply BitVec.eq_of_toNat_eq
  have := lo.isLt
  rw [lo8_toNat, word_toNat]
  omega

@[simp] theorem hi8_word (hi lo : Byte) : hi8 (word hi lo) = hi := by
  apply BitVec.eq_of_toNat_eq
  have := lo.isLt
  rw [hi8_toNat, word_toNat]
  omega

@[simp] theorem word_hi8_lo8 (w : Addr) : word (hi8 w) (lo8 w) = w := by
  apply BitVec.eq_of_toNat_eq
  rw [word_toNat, lo8_toNat, hi8_toNat]
  omega

theorem zext16_toNat (v : Byte) : (zext16 v).toNat = v.toNat := by
  have h := v.isLt
  simp only [zext16, BitVec.toNat_setWidth]
  omega

theorem word_zero (v : Byte) : word 0 v = zext16 v := by
  apply BitVec.eq_of_toNat_eq
  rw [word_toNat, zext16_toNat]
  simp

theorem signed8_eq_toInt (v : Byte) : signed8 v = v.toInt := by
  have h := v.isLt
  simp only [signed8, BitVec.toInt_eq_toNat_cond]
  split <;> split <;> omega

end Sys2Proof
end

