-- ==== Sys2Proof/Laws/Memory.lean ====
section
/-! SUPPORT. Reading and writing byte storage, and the canonical form every operation keeps. -/

namespace Sys2Proof.Machine

@[simp] theorem Memory.read_nil (k : Nat) : Memory.read [] k = 0 := rfl

theorem Memory.read_cons (a : Nat) (v : Byte) (m : Memory) (k : Nat) :
    Memory.read ((a, v) :: m) k = if a = k then v else m.read k := rfl

theorem Memory.read_erase (m : Memory) (k j : Nat) : (m.erase k).read j = if k = j then 0 else m.read j := by
  induction m with
  | nil => simp [Memory.erase]
  | cons cell m ih =>
    obtain ⟨a, v⟩ := cell
    simp only [Memory.erase]
    by_cases ha : a = k
    · subst ha; simp only [if_true, ih, Memory.read_cons]; split <;> rfl
    · rw [if_neg ha, Memory.read_cons, Memory.read_cons, ih]
      by_cases hj : a = j
      · simp [hj, Ne.symm (hj ▸ ha : j ≠ k)]
      · simp [hj]

theorem Memory.read_insert_same {m : Memory} {k : Nat} (h : m.read k = 0) (hk : ∀ c ∈ m, c.1 ≠ k) (v : Byte) :
    (m.insert k v).read k = v := by
  induction m with
  | nil => simp [Memory.insert, Memory.read_cons]
  | cons cell m ih =>
    obtain ⟨a, w⟩ := cell
    have ha : a ≠ k := hk (a, w) (by simp)
    simp only [Memory.insert]
    split
    · simp [Memory.read_cons]
    · rw [Memory.read_cons, if_neg ha]
      rw [Memory.read_cons, if_neg ha] at h
      exact ih h (fun c hc => hk c (by simp [hc]))

theorem Memory.read_insert_other (m : Memory) {k j : Nat} (h : k ≠ j) (v : Byte) :
    (m.insert k v).read j = m.read j := by
  induction m with
  | nil => simp [Memory.insert, Memory.read_cons, h]
  | cons cell m ih =>
    obtain ⟨a, w⟩ := cell
    simp only [Memory.insert]
    split
    · rw [Memory.read_cons, if_neg h]
    · rw [Memory.read_cons, Memory.read_cons, ih]

theorem Memory.erase_key_ne (m : Memory) (k : Nat) : ∀ c ∈ m.erase k, c.1 ≠ k := by
  induction m with
  | nil => simp [Memory.erase]
  | cons cell m ih =>
    obtain ⟨a, v⟩ := cell
    simp only [Memory.erase]
    split
    · exact ih
    · rename_i h
      intro c hc
      rcases List.mem_cons.mp hc with rfl | hc
      · exact h
      · exact ih c hc

/-- A read after a write to the same index gives the byte written. -/
@[simp] theorem Memory.read_write_same (m : Memory) (k : Nat) (v : Byte) : (m.write k v).read k = v := by
  unfold Memory.write
  split
  · rename_i h; simp [Memory.read_erase, h, unlistedByte]
  · exact Memory.read_insert_same (by simp [Memory.read_erase]) (m.erase_key_ne k) v

/-- A write leaves every other index alone. -/
theorem Memory.read_write_other (m : Memory) {k j : Nat} (h : k ≠ j) (v : Byte) : (m.write k v).read j = m.read j := by
  unfold Memory.write
  split
  · simp [Memory.read_erase, h]
  · rw [Memory.read_insert_other _ h, Memory.read_erase, if_neg h]

/-- What a read gives after a write. -/
theorem Memory.read_write (m : Memory) (k j : Nat) (v : Byte) :
    (m.write k v).read j = if k = j then v else m.read j := by
  split
  · rename_i h; subst h; simp
  · rename_i h; exact m.read_write_other h v

theorem Memory.wfFrom_cons {size lo a : Nat} {v : Byte} {m : Memory} :
    Memory.wfFrom size lo ((a, v) :: m) = true ↔ lo ≤ a ∧ a < size ∧ v ≠ 0 ∧ Memory.wfFrom size (a + 1) m = true := by
  simp [Memory.wfFrom, unlistedByte, and_assoc]

theorem Memory.wfFrom_mono {size lo hi : Nat} {m : Memory} (h : lo ≤ hi) (hm : Memory.wfFrom size hi m = true) :
    Memory.wfFrom size lo m = true := by
  cases m with
  | nil => rfl
  | cons cell m =>
    obtain ⟨a, v⟩ := cell
    rw [Memory.wfFrom_cons] at hm ⊢
    exact ⟨h.trans hm.1, hm.2⟩

theorem Memory.wfFrom_erase {size lo : Nat} {m : Memory} (k : Nat) (hm : Memory.wfFrom size lo m = true) :
    Memory.wfFrom size lo (m.erase k) = true := by
  induction m generalizing lo with
  | nil => rfl
  | cons cell m ih =>
    obtain ⟨a, v⟩ := cell
    obtain ⟨h1, h2, h3, h4⟩ := Memory.wfFrom_cons.mp hm
    simp only [Memory.erase]
    split
    · exact Memory.wfFrom_mono (by omega) (ih h4)
    · exact Memory.wfFrom_cons.mpr ⟨h1, h2, h3, ih h4⟩

theorem Memory.wfFrom_insert {size lo k : Nat} {m : Memory} {v : Byte} (hlo : lo ≤ k) (hk : k < size) (hv : v ≠ 0)
    (hne : ∀ c ∈ m, c.1 ≠ k) (hm : Memory.wfFrom size lo m = true) : Memory.wfFrom size lo (m.insert k v) = true := by
  induction m generalizing lo with
  | nil => exact Memory.wfFrom_cons.mpr ⟨hlo, hk, hv, rfl⟩
  | cons cell m ih =>
    obtain ⟨a, w⟩ := cell
    obtain ⟨h1, h2, h3, h4⟩ := Memory.wfFrom_cons.mp hm
    have ha : a ≠ k := hne (a, w) (by simp)
    simp only [Memory.insert]
    split
    · rename_i hka
      exact Memory.wfFrom_cons.mpr ⟨hlo, hk, hv, Memory.wfFrom_cons.mpr ⟨by omega, h2, h3, h4⟩⟩
    · exact Memory.wfFrom_cons.mpr ⟨h1, h2, h3, ih (by omega) (fun c hc => hne c (by simp [hc])) h4⟩

/-- A write inside the storage keeps the canonical form. -/
theorem Memory.wf_write {size k : Nat} {m : Memory} (hk : k < size) (v : Byte) (hm : m.wf size = true) :
    (m.write k v).wf size = true := by
  unfold Memory.write
  split
  · exact Memory.wfFrom_erase k hm
  · rename_i hv
    exact Memory.wfFrom_insert (Nat.zero_le k) hk hv (m.erase_key_ne k) (Memory.wfFrom_erase k hm)

theorem Memory.read_eq_zero_of_lt {size lo k : Nat} {m : Memory} (hk : k < lo) (hm : Memory.wfFrom size lo m = true) :
    m.read k = 0 := by
  induction m generalizing lo with
  | nil => rfl
  | cons cell m ih =>
    obtain ⟨a, v⟩ := cell
    obtain ⟨h1, _, _, h4⟩ := Memory.wfFrom_cons.mp hm
    rw [Memory.read_cons, if_neg (by omega)]
    exact ih (by omega) h4

theorem Memory.ext_wfFrom {size lo : Nat} {m n : Memory} (hm : Memory.wfFrom size lo m = true)
    (hn : Memory.wfFrom size lo n = true) (h : ∀ k, m.read k = n.read k) : m = n := by
  induction m generalizing lo n with
  | nil =>
    cases n with
    | nil => rfl
    | cons cell n =>
      obtain ⟨b, w⟩ := cell
      have := h b
      simp only [Memory.read_nil, Memory.read_cons, if_true] at this
      exact absurd this.symm (Memory.wfFrom_cons.mp hn).2.2.1
  | cons cell m ih =>
    obtain ⟨a, v⟩ := cell
    obtain ⟨hm1, hm2, hm3, hm4⟩ := Memory.wfFrom_cons.mp hm
    cases n with
    | nil =>
      have := h a
      simp only [Memory.read_nil, Memory.read_cons, if_true] at this
      exact absurd this hm3
    | cons cell n =>
      obtain ⟨b, w⟩ := cell
      obtain ⟨hn1, hn2, hn3, hn4⟩ := Memory.wfFrom_cons.mp hn
      have hab : a = b := by
        rcases Nat.lt_trichotomy a b with hlt | heq | hgt
        · have h1 := h a
          rw [Memory.read_cons, if_pos rfl, Memory.read_cons, if_neg (by omega),
            Memory.read_eq_zero_of_lt (by omega) hn4] at h1
          exact absurd h1 hm3
        · exact heq
        · have h1 := h b
          rw [Memory.read_cons, if_neg (by omega), Memory.read_cons, if_pos rfl,
            Memory.read_eq_zero_of_lt (by omega) hm4] at h1
          exact absurd h1.symm hn3
      subst hab
      have hvw : v = w := by simpa [Memory.read_cons] using h a
      subst hvw
      congr 1
      refine ih hm4 hn4 (fun k => ?_)
      by_cases hk : a = k
      · subst hk
        rw [Memory.read_eq_zero_of_lt (Nat.lt_succ_self a) hm4, Memory.read_eq_zero_of_lt (Nat.lt_succ_self a) hn4]
      · have := h k
        rwa [Memory.read_cons, if_neg hk, Memory.read_cons, if_neg hk] at this

/-- In canonical form, equal contents are equal lists. -/
theorem Memory.ext_wf {size : Nat} {m n : Memory} (hm : m.wf size = true) (hn : n.wf size = true)
    (h : ∀ k, m.read k = n.read k) : m = n := Memory.ext_wfFrom hm hn h

theorem Memory.wfFrom_ofBytes {size lo : Nat} (bs : List Byte) (h : lo + bs.length ≤ size) :
    Memory.wfFrom size lo (Memory.ofBytes lo bs) = true := by
  induction bs generalizing lo with
  | nil => rfl
  | cons b bs ih =>
    simp only [List.length_cons] at h
    have hrest := ih (lo := lo + 1) (by omega)
    simp only [Memory.ofBytes]
    split
    · exact Memory.wfFrom_mono (by omega) hrest
    · rename_i hb
      exact Memory.wfFrom_cons.mpr ⟨le_refl _, by omega, hb, hrest⟩

/-- The storage of a list of bytes reads as the list. -/
theorem Memory.read_ofBytes (bs : List Byte) (base j : Nat) :
    (Memory.ofBytes base bs).read (base + j) = bs.getD j 0 := by
  induction bs generalizing base j with
  | nil => simp [Memory.ofBytes]
  | cons b bs ih =>
    have hlow : ∀ m, m ≤ base → (Memory.ofBytes (base + 1) bs).read m = 0 := fun m hm =>
      Memory.read_eq_zero_of_lt (size := base + 1 + bs.length) (lo := base + 1) (by omega)
        (Memory.wfFrom_ofBytes bs (le_refl _))
    simp only [Memory.ofBytes]
    cases j with
    | zero =>
      split
      · rename_i hb; exact (hlow base (le_refl _)).trans (by simpa [unlistedByte] using hb.symm)
      · simp [Memory.read_cons]
    | succ j =>
      have hj : base + (j + 1) = base + 1 + j := by omega
      split
      · rw [hj, ih]; simp
      · rw [Memory.read_cons, if_neg (by omega), hj, ih]; simp

end Sys2Proof.Machine
end

