-- ==== Sys2Proof/Laws/State.lean ====
section
/-! SUPPORT. One lemma per field per state update, each true by unfolding, so that no later proof unfolds a record update. -/

namespace Sys2Proof.Machine

variable (s : State)

section setA
@[simp] theorem State.setA_a (v : Byte) : (s.setA v).a = v := rfl
@[simp] theorem State.setA_x (v : Byte) : (s.setA v).x = s.x := rfl
@[simp] theorem State.setA_y (v : Byte) : (s.setA v).y = s.y := rfl
@[simp] theorem State.setA_sp (v : Byte) : (s.setA v).sp = s.sp := rfl
@[simp] theorem State.setA_pc (v : Byte) : (s.setA v).pc = s.pc := rfl
@[simp] theorem State.setA_p (v : Byte) : (s.setA v).p = s.p := rfl
@[simp] theorem State.setA_ram (v : Byte) : (s.setA v).ram = s.ram := rfl
@[simp] theorem State.setA_cart (v : Byte) : (s.setA v).cart = s.cart := rfl
@[simp] theorem State.setA_fault (v : Byte) : (s.setA v).fault = s.fault := rfl
@[simp] theorem State.setA_cfg (v : Byte) : (s.setA v).cfg = s.cfg := rfl
end setA

section setX
@[simp] theorem State.setX_a (v : Byte) : (s.setX v).a = s.a := rfl
@[simp] theorem State.setX_x (v : Byte) : (s.setX v).x = v := rfl
@[simp] theorem State.setX_y (v : Byte) : (s.setX v).y = s.y := rfl
@[simp] theorem State.setX_sp (v : Byte) : (s.setX v).sp = s.sp := rfl
@[simp] theorem State.setX_pc (v : Byte) : (s.setX v).pc = s.pc := rfl
@[simp] theorem State.setX_p (v : Byte) : (s.setX v).p = s.p := rfl
@[simp] theorem State.setX_ram (v : Byte) : (s.setX v).ram = s.ram := rfl
@[simp] theorem State.setX_cart (v : Byte) : (s.setX v).cart = s.cart := rfl
@[simp] theorem State.setX_fault (v : Byte) : (s.setX v).fault = s.fault := rfl
@[simp] theorem State.setX_cfg (v : Byte) : (s.setX v).cfg = s.cfg := rfl
end setX

section setY
@[simp] theorem State.setY_a (v : Byte) : (s.setY v).a = s.a := rfl
@[simp] theorem State.setY_x (v : Byte) : (s.setY v).x = s.x := rfl
@[simp] theorem State.setY_y (v : Byte) : (s.setY v).y = v := rfl
@[simp] theorem State.setY_sp (v : Byte) : (s.setY v).sp = s.sp := rfl
@[simp] theorem State.setY_pc (v : Byte) : (s.setY v).pc = s.pc := rfl
@[simp] theorem State.setY_p (v : Byte) : (s.setY v).p = s.p := rfl
@[simp] theorem State.setY_ram (v : Byte) : (s.setY v).ram = s.ram := rfl
@[simp] theorem State.setY_cart (v : Byte) : (s.setY v).cart = s.cart := rfl
@[simp] theorem State.setY_fault (v : Byte) : (s.setY v).fault = s.fault := rfl
@[simp] theorem State.setY_cfg (v : Byte) : (s.setY v).cfg = s.cfg := rfl
end setY

section setSp
@[simp] theorem State.setSp_a (v : Byte) : (s.setSp v).a = s.a := rfl
@[simp] theorem State.setSp_x (v : Byte) : (s.setSp v).x = s.x := rfl
@[simp] theorem State.setSp_y (v : Byte) : (s.setSp v).y = s.y := rfl
@[simp] theorem State.setSp_sp (v : Byte) : (s.setSp v).sp = v := rfl
@[simp] theorem State.setSp_pc (v : Byte) : (s.setSp v).pc = s.pc := rfl
@[simp] theorem State.setSp_p (v : Byte) : (s.setSp v).p = s.p := rfl
@[simp] theorem State.setSp_ram (v : Byte) : (s.setSp v).ram = s.ram := rfl
@[simp] theorem State.setSp_cart (v : Byte) : (s.setSp v).cart = s.cart := rfl
@[simp] theorem State.setSp_fault (v : Byte) : (s.setSp v).fault = s.fault := rfl
@[simp] theorem State.setSp_cfg (v : Byte) : (s.setSp v).cfg = s.cfg := rfl
end setSp

section setPc
@[simp] theorem State.setPc_a (w : Addr) : (s.setPc w).a = s.a := rfl
@[simp] theorem State.setPc_x (w : Addr) : (s.setPc w).x = s.x := rfl
@[simp] theorem State.setPc_y (w : Addr) : (s.setPc w).y = s.y := rfl
@[simp] theorem State.setPc_sp (w : Addr) : (s.setPc w).sp = s.sp := rfl
@[simp] theorem State.setPc_pc (w : Addr) : (s.setPc w).pc = w := rfl
@[simp] theorem State.setPc_p (w : Addr) : (s.setPc w).p = s.p := rfl
@[simp] theorem State.setPc_ram (w : Addr) : (s.setPc w).ram = s.ram := rfl
@[simp] theorem State.setPc_cart (w : Addr) : (s.setPc w).cart = s.cart := rfl
@[simp] theorem State.setPc_fault (w : Addr) : (s.setPc w).fault = s.fault := rfl
@[simp] theorem State.setPc_cfg (w : Addr) : (s.setPc w).cfg = s.cfg := rfl
end setPc

section setP
@[simp] theorem State.setP_a (p : Status) : (s.setP p).a = s.a := rfl
@[simp] theorem State.setP_x (p : Status) : (s.setP p).x = s.x := rfl
@[simp] theorem State.setP_y (p : Status) : (s.setP p).y = s.y := rfl
@[simp] theorem State.setP_sp (p : Status) : (s.setP p).sp = s.sp := rfl
@[simp] theorem State.setP_pc (p : Status) : (s.setP p).pc = s.pc := rfl
@[simp] theorem State.setP_p (p : Status) : (s.setP p).p = p := rfl
@[simp] theorem State.setP_ram (p : Status) : (s.setP p).ram = s.ram := rfl
@[simp] theorem State.setP_cart (p : Status) : (s.setP p).cart = s.cart := rfl
@[simp] theorem State.setP_fault (p : Status) : (s.setP p).fault = s.fault := rfl
@[simp] theorem State.setP_cfg (p : Status) : (s.setP p).cfg = s.cfg := rfl
end setP

section setNZ
@[simp] theorem State.setNZ_a (v : Byte) : (s.setNZ v).a = s.a := rfl
@[simp] theorem State.setNZ_x (v : Byte) : (s.setNZ v).x = s.x := rfl
@[simp] theorem State.setNZ_y (v : Byte) : (s.setNZ v).y = s.y := rfl
@[simp] theorem State.setNZ_sp (v : Byte) : (s.setNZ v).sp = s.sp := rfl
@[simp] theorem State.setNZ_pc (v : Byte) : (s.setNZ v).pc = s.pc := rfl
@[simp] theorem State.setNZ_p (v : Byte) : (s.setNZ v).p = s.p.withNZ v := rfl
@[simp] theorem State.setNZ_ram (v : Byte) : (s.setNZ v).ram = s.ram := rfl
@[simp] theorem State.setNZ_cart (v : Byte) : (s.setNZ v).cart = s.cart := rfl
@[simp] theorem State.setNZ_fault (v : Byte) : (s.setNZ v).fault = s.fault := rfl
@[simp] theorem State.setNZ_cfg (v : Byte) : (s.setNZ v).cfg = s.cfg := rfl
end setNZ

section write
@[simp] theorem State.write_a (w : Addr) (v : Byte) : (s.write w v).a = s.a := rfl
@[simp] theorem State.write_x (w : Addr) (v : Byte) : (s.write w v).x = s.x := rfl
@[simp] theorem State.write_y (w : Addr) (v : Byte) : (s.write w v).y = s.y := rfl
@[simp] theorem State.write_sp (w : Addr) (v : Byte) : (s.write w v).sp = s.sp := rfl
@[simp] theorem State.write_pc (w : Addr) (v : Byte) : (s.write w v).pc = s.pc := rfl
@[simp] theorem State.write_p (w : Addr) (v : Byte) : (s.write w v).p = s.p := rfl
@[simp] theorem State.write_ram (w : Addr) (v : Byte) : (s.write w v).ram = busWrite s.ram w v := rfl
@[simp] theorem State.write_cart (w : Addr) (v : Byte) : (s.write w v).cart = s.cart := rfl
@[simp] theorem State.write_fault (w : Addr) (v : Byte) : (s.write w v).fault = s.fault := rfl
@[simp] theorem State.write_cfg (w : Addr) (v : Byte) : (s.write w v).cfg = s.cfg := rfl
end write

section push
@[simp] theorem State.push_a (v : Byte) : (s.push v).a = s.a := rfl
@[simp] theorem State.push_x (v : Byte) : (s.push v).x = s.x := rfl
@[simp] theorem State.push_y (v : Byte) : (s.push v).y = s.y := rfl
@[simp] theorem State.push_sp (v : Byte) : (s.push v).sp = s.sp - 1 := rfl
@[simp] theorem State.push_pc (v : Byte) : (s.push v).pc = s.pc := rfl
@[simp] theorem State.push_p (v : Byte) : (s.push v).p = s.p := rfl
@[simp] theorem State.push_ram (v : Byte) : (s.push v).ram = busWrite s.ram (stackAddr s.sp) v := rfl
@[simp] theorem State.push_cart (v : Byte) : (s.push v).cart = s.cart := rfl
@[simp] theorem State.push_fault (v : Byte) : (s.push v).fault = s.fault := rfl
@[simp] theorem State.push_cfg (v : Byte) : (s.push v).cfg = s.cfg := rfl
end push

section afterPull
@[simp] theorem State.afterPull_a : s.afterPull.a = s.a := rfl
@[simp] theorem State.afterPull_x : s.afterPull.x = s.x := rfl
@[simp] theorem State.afterPull_y : s.afterPull.y = s.y := rfl
@[simp] theorem State.afterPull_sp : s.afterPull.sp = s.sp + 1 := rfl
@[simp] theorem State.afterPull_pc : s.afterPull.pc = s.pc := rfl
@[simp] theorem State.afterPull_p : s.afterPull.p = s.p := rfl
@[simp] theorem State.afterPull_ram : s.afterPull.ram = s.ram := rfl
@[simp] theorem State.afterPull_cart : s.afterPull.cart = s.cart := rfl
@[simp] theorem State.afterPull_fault : s.afterPull.fault = s.fault := rfl
@[simp] theorem State.afterPull_cfg : s.afterPull.cfg = s.cfg := rfl
end afterPull

section pushAddr
@[simp] theorem State.pushAddr_a (w : Addr) : (s.pushAddr w).a = s.a := rfl
@[simp] theorem State.pushAddr_x (w : Addr) : (s.pushAddr w).x = s.x := rfl
@[simp] theorem State.pushAddr_y (w : Addr) : (s.pushAddr w).y = s.y := rfl
@[simp] theorem State.pushAddr_sp (w : Addr) : (s.pushAddr w).sp = s.sp - 1 - 1 := rfl
@[simp] theorem State.pushAddr_pc (w : Addr) : (s.pushAddr w).pc = s.pc := rfl
@[simp] theorem State.pushAddr_p (w : Addr) : (s.pushAddr w).p = s.p := rfl
@[simp] theorem State.pushAddr_ram (w : Addr) : (s.pushAddr w).ram = busWrite (busWrite s.ram (stackAddr s.sp) (hi8 w)) (stackAddr (s.sp - 1)) (lo8 w) := rfl
@[simp] theorem State.pushAddr_cart (w : Addr) : (s.pushAddr w).cart = s.cart := rfl
@[simp] theorem State.pushAddr_fault (w : Addr) : (s.pushAddr w).fault = s.fault := rfl
@[simp] theorem State.pushAddr_cfg (w : Addr) : (s.pushAddr w).cfg = s.cfg := rfl
end pushAddr

section raiseIllegalOpcode
@[simp] theorem State.raiseIllegalOpcode_a (op : Byte) (w : Addr) : (s.raiseIllegalOpcode op w).a = s.a := rfl
@[simp] theorem State.raiseIllegalOpcode_x (op : Byte) (w : Addr) : (s.raiseIllegalOpcode op w).x = s.x := rfl
@[simp] theorem State.raiseIllegalOpcode_y (op : Byte) (w : Addr) : (s.raiseIllegalOpcode op w).y = s.y := rfl
@[simp] theorem State.raiseIllegalOpcode_sp (op : Byte) (w : Addr) : (s.raiseIllegalOpcode op w).sp = s.sp := rfl
@[simp] theorem State.raiseIllegalOpcode_pc (op : Byte) (w : Addr) : (s.raiseIllegalOpcode op w).pc = w + 1 := rfl
@[simp] theorem State.raiseIllegalOpcode_p (op : Byte) (w : Addr) : (s.raiseIllegalOpcode op w).p = s.p := rfl
@[simp] theorem State.raiseIllegalOpcode_ram (op : Byte) (w : Addr) : (s.raiseIllegalOpcode op w).ram = s.ram := rfl
@[simp] theorem State.raiseIllegalOpcode_cart (op : Byte) (w : Addr) : (s.raiseIllegalOpcode op w).cart = s.cart := rfl
@[simp] theorem State.raiseIllegalOpcode_fault (op : Byte) (w : Addr) : (s.raiseIllegalOpcode op w).fault = some { op := op, addr := w } := rfl
@[simp] theorem State.raiseIllegalOpcode_cfg (op : Byte) (w : Addr) : (s.raiseIllegalOpcode op w).cfg = s.cfg := rfl
end raiseIllegalOpcode

/-- Reading memory depends on RAM and the cartridge alone (20_memory.md R61). -/
theorem State.read_congr {s t : State} (hr : t.ram = s.ram) (hc : t.cart = s.cart) (w : Addr) : t.read w = s.read w := by
  simp [State.read, hr, hc]

@[simp] theorem State.setA_read (v : Byte) (w : Addr) : (s.setA v).read w = s.read w := rfl
@[simp] theorem State.setX_read (v : Byte) (w : Addr) : (s.setX v).read w = s.read w := rfl
@[simp] theorem State.setY_read (v : Byte) (w : Addr) : (s.setY v).read w = s.read w := rfl
@[simp] theorem State.setSp_read (v : Byte) (w : Addr) : (s.setSp v).read w = s.read w := rfl
@[simp] theorem State.setPc_read (u : Addr) (w : Addr) : (s.setPc u).read w = s.read w := rfl
@[simp] theorem State.setP_read (p : Status) (w : Addr) : (s.setP p).read w = s.read w := rfl
@[simp] theorem State.setNZ_read (v : Byte) (w : Addr) : (s.setNZ v).read w = s.read w := rfl
@[simp] theorem State.afterPull_read (w : Addr) : s.afterPull.read w = s.read w := rfl
@[simp] theorem State.raiseIllegalOpcode_read (op : Byte) (u : Addr) (w : Addr) : (s.raiseIllegalOpcode op u).read w = s.read w := rfl

@[simp] theorem Status.withNZ_n (p : Status) (v : Byte) : (p.withNZ v).n = v.getLsbD 7 := rfl
@[simp] theorem Status.withNZ_z (p : Status) (v : Byte) : (p.withNZ v).z = (v == 0) := rfl
@[simp] theorem Status.withNZ_v (p : Status) (v : Byte) : (p.withNZ v).v = p.v := rfl
@[simp] theorem Status.withNZ_d (p : Status) (v : Byte) : (p.withNZ v).d = p.d := rfl
@[simp] theorem Status.withNZ_i (p : Status) (v : Byte) : (p.withNZ v).i = p.i := rfl
@[simp] theorem Status.withNZ_c (p : Status) (v : Byte) : (p.withNZ v).c = p.c := rfl

end Sys2Proof.Machine
end

