-- ==== Sys2Proof/Laws/Bus.lean ====
section
/-! SUPPORT. What a bus read and a bus write can do (20_memory.md R61 to R68), said once. -/

namespace Sys2Proof.Machine

theorem ramIndex_eq (w : Addr) : ramIndex w = w.toNat % 2048 := by
  unfold ramIndex
  rw [BitVec.toNat_and]
  exact Nat.and_two_pow_sub_one_eq_mod w.toNat 11

theorem ramIndex_lt (w : Addr) : ramIndex w < ramSize := by
  rw [ramIndex_eq]; exact Nat.mod_lt _ (by decide)

theorem isRam_iff (w : Addr) : isRam w = true ↔ w.toNat ≤ 0x1FFF := by simp [isRam]

theorem isCartridge_iff (w : Addr) : isCartridge w = true ↔ 0x8000 ≤ w.toNat := by simp [isCartridge]

theorem not_isRam_of_isCartridge {w : Addr} (h : isCartridge w = true) : isRam w = false := by
  rw [isCartridge_iff] at h
  simp only [isRam, decide_eq_false_iff_not]
  omega

/-- What a read gives after a write. -/
theorem State.read_write (s : State) (u w : Addr) (v : Byte) :
    (s.write u v).read w = if sameRamByte u w then v else s.read w := by
  unfold State.read State.write sameRamByte busRead busWrite
  cases hu : isRam u <;> cases hw : isRam w <;> simp [Memory.read_write]

@[simp] theorem State.read_write_same {u : Addr} (s : State) (h : isRam u = true) (v : Byte) :
    (s.write u v).read u = v := by
  rw [State.read_write, if_pos (by simp [sameRamByte, h])]

/-- A write outside the RAM window changes nothing (20_memory.md R67, R68). -/
theorem State.write_of_not_isRam {u : Addr} (s : State) (h : isRam u = false) (v : Byte) : s.write u v = s := by
  simp [State.write, busWrite, h]

theorem busWrite_wf {ram : Memory} (u : Addr) (v : Byte) (h : ram.wf ramSize = true) :
    (busWrite ram u v).wf ramSize = true := by
  unfold busWrite
  split
  · exact Memory.wf_write (ramIndex_lt u) v h
  · exact h

/-- Every bus write keeps the canonical form of RAM. -/
theorem State.write_wf {s : State} (u : Addr) (v : Byte) (h : s.ram.wf ramSize = true) :
    (s.write u v).ram.wf ramSize = true := busWrite_wf u v h

/-- A read of the cartridge window does not depend on RAM. -/
theorem State.read_cartridge {s t : State} {w : Addr} (h : isCartridge w = true) (hc : t.cart = s.cart) :
    t.read w = s.read w := by
  simp [State.read, busRead, not_isRam_of_isCartridge h, h, hc]

end Sys2Proof.Machine
end

