-- ==== Sys2Proof/Laws/Decode.lean ====
section
/-! SUPPORT. The Opcode Table and the decoder, said once. -/

namespace Sys2Proof.Laws

open Sys2Proof

theorem opcodeTable_full : opcodeTable.length = 16 ∧ ∀ row ∈ opcodeTable, row.length = 16 := by decide

theorem operandBytes_le_two (mode : Mode) : mode.operandBytes ≤ 2 := by cases mode <;> decide

theorem operandCount_le_two (op : Byte) : operandCount op ≤ 2 := by
  unfold operandCount
  split
  · exact operandBytes_le_two _
  · exact operandBytes_le_two _
  · exact Nat.zero_le 2

/-- The decoder on a list that holds an opcode byte and two more: the operand bytes the opcode lacks are left over. -/
theorem decode_three (op b1 b2 : Byte) (rest : List Byte) :
    (operandCount op = 0 ∧ decode (op :: b1 :: b2 :: rest) = .ok (instrOf op 0 0, b1 :: b2 :: rest)) ∨
    (operandCount op = 1 ∧ decode (op :: b1 :: b2 :: rest) = .ok (instrOf op b1 0, b2 :: rest)) ∨
    (operandCount op = 2 ∧ decode (op :: b1 :: b2 :: rest) = .ok (instrOf op b1 b2, rest)) := by
  have h := operandCount_le_two op
  rcases hc : operandCount op with _ | _ | _ | n
  · exact .inl ⟨rfl, by simp [decode, hc]⟩
  · exact .inr (.inl ⟨rfl, by simp [decode, hc]⟩)
  · exact .inr (.inr ⟨rfl, by simp [decode, hc]⟩)
  · omega

/-- A decoder result names how many operand bytes it took. -/
theorem decode_ok {bs rest : List Byte} {i : Instr} (h : decode bs = .ok (i, rest)) :
    (∃ op, operandCount op = 0 ∧ bs = op :: rest ∧ i = instrOf op 0 0) ∨
    (∃ op b1, operandCount op = 1 ∧ bs = op :: b1 :: rest ∧ i = instrOf op b1 0) ∨
    (∃ op b1 b2, operandCount op = 2 ∧ bs = op :: b1 :: b2 :: rest ∧ i = instrOf op b1 b2) := by
  cases bs with
  | nil => cases h
  | cons op bs =>
    have hle := operandCount_le_two op
    unfold decode at h
    rcases hc : operandCount op with _ | _ | _ | n
    · simp only [hc] at h
      cases h
      exact .inl ⟨op, hc, rfl, rfl⟩
    · rcases bs with _ | ⟨b1, bs⟩ <;> simp only [hc] at h <;> cases h
      exact .inr (.inl ⟨op, b1, hc, rfl, rfl⟩)
    · rcases bs with _ | ⟨b1, _ | ⟨b2, bs⟩⟩ <;> simp only [hc] at h <;> cases h
      exact .inr (.inr ⟨op, b1, b2, hc, rfl, rfl⟩)
    · omega

/-- Whether a mnemonic has a mode does not depend on the operand bytes, and the operand bytes of the instruction are the
first ones read, as many as the mode has. -/
theorem documentedInstr_bytes (m : Mnemonic) (mode : Mode) (b1 b2 : Byte) :
    (documentedInstr m mode b1 b2).map operandBytes =
      (documentedInstr m mode 0 0).map fun _ => [b1, b2].take mode.operandBytes := by
  cases m <;> cases mode <;>
    simp [documentedInstr, readOperand, memOperand, shiftOperand, jumpOperand, implied, relative, operandBytes,
      ReadOperand.bytes, MemOperand.bytes, ShiftOperand.bytes, JumpOperand.bytes, Mode.operandBytes]

theorem undocumentedInstr_bytes (mode : Mode) (op b1 b2 : Byte) :
    (undocumentedInstr mode op b1 b2).map operandBytes =
      (undocumentedInstr mode op 0 0).map fun _ => [b1, b2].take mode.operandBytes := by
  cases mode <;> simp [undocumentedInstr, operandBytes, Mode.operandBytes]

/-- No row of the table names a mode its mnemonic lacks, so the default of `instrOf` is never taken (notes/assumptions/13.md). -/
def rowAssembles (op : Byte) : Bool :=
  match entryAt op with
  | .documented m mode _ _ => (documentedInstr m mode 0 0).isSome
  | .undocumentedNop mode _ _ => (undocumentedInstr mode op 0 0).isSome
  | .illegal => true

theorem rows_assemble : ∀ op : Byte, rowAssembles op = true := by decide

/-- The operand bytes of a decoded instruction are the bytes read. -/
theorem operandBytes_instrOf (op b1 b2 : Byte) : operandBytes (instrOf op b1 b2) = [b1, b2].take (operandCount op) := by
  have h := rows_assemble op
  unfold rowAssembles at h
  unfold instrOf operandCount
  cases he : entryAt op with
  | documented m mode cycles pageCross =>
    simp only [he] at h ⊢
    obtain ⟨i, hi⟩ := Option.isSome_iff_exists.mp h
    have hb := documentedInstr_bytes m mode b1 b2
    rw [hi] at hb
    obtain ⟨j, hj, hjb⟩ := Option.map_eq_some_iff.mp hb
    rw [hj, Option.getD_some, hjb]
  | undocumentedNop mode cycles pageCross =>
    simp only [he] at h ⊢
    obtain ⟨i, hi⟩ := Option.isSome_iff_exists.mp h
    have hb := undocumentedInstr_bytes mode op b1 b2
    rw [hi] at hb
    obtain ⟨j, hj, hjb⟩ := Option.map_eq_some_iff.mp hb
    rw [hj, Option.getD_some, hjb]
  | illegal => rfl

/-- The length of a decoded instruction is its opcode byte and the operand bytes of the table. -/
theorem instrLength_instrOf (op b1 b2 : Byte) : instrLength (instrOf op b1 b2) = 1 + operandCount op := by
  have h := operandCount_le_two op
  rw [instrLength, operandBytes_instrOf, List.length_take]
  simp only [List.length_cons, List.length_nil]
  omega

end Sys2Proof.Laws
end

