-- ==== Sys2Proof/Laws/Ops.lean ====
section
/-! SUPPORT. The stack, the status byte, and the trap entry and return, said once. -/

namespace Sys2Proof.Machine

theorem stackAddr_toNat (sp : Byte) : (stackAddr sp).toNat = 256 + sp.toNat := by
  have h := sp.isLt
  simp only [stackAddr, BitVec.toNat_add, zext16_toNat]
  rw [show (0x0100 : Addr).toNat = 256 from rfl]
  omega

@[simp] theorem isRam_stackAddr (sp : Byte) : isRam (stackAddr sp) = true := by
  have h := sp.isLt
  rw [isRam_iff, stackAddr_toNat]
  omega

/-- The stack page is RAM[0x100..0x1FF] (20_memory.md R75). -/
theorem ramIndex_stackAddr (sp : Byte) : ramIndex (stackAddr sp) = 256 + sp.toNat := by
  have h := sp.isLt
  rw [ramIndex_eq, stackAddr_toNat]
  omega

theorem sameRamByte_stackAddr (p q : Byte) : sameRamByte (stackAddr p) (stackAddr q) = (p == q) := by
  simp only [sameRamByte, isRam_stackAddr, ramIndex_stackAddr, Bool.and_self, Bool.true_and]
  rw [Bool.eq_iff_iff]
  simp only [beq_iff_eq]
  constructor
  · intro h; apply BitVec.eq_of_toNat_eq; omega
  · intro h; rw [h]

/-- What a read gives after a push. -/
theorem State.read_push (s : State) (v : Byte) (w : Addr) :
    (s.push v).read w = if sameRamByte (stackAddr s.sp) w then v else s.read w := s.read_write _ _ _

/-- A pull after a push gives the byte pushed. -/
@[simp] theorem State.pulled_push (s : State) (v : Byte) : (s.push v).pulled = v := by
  unfold State.pulled
  simp [State.read_push, sameRamByte_stackAddr]

/-- Two pulls after a pushed address give the address. -/
theorem State.pulledAddr_pushAddr (s : State) (w : Addr) : (s.pushAddr w).pulledAddr = w := by
  have hlo : (s.pushAddr w).pulled = lo8 w := State.pulled_push _ _
  have hhi : (s.pushAddr w).afterPull.pulled = hi8 w := by
    unfold State.pulled State.pushAddr
    rw [State.afterPull_read, State.read_push, sameRamByte_stackAddr]
    simp [State.read_push, sameRamByte_stackAddr]
  rw [State.pulledAddr, hlo, hhi, word_hi8_lo8]

theorem State.push_wf {s : State} (v : Byte) (h : s.ram.wf ramSize = true) : (s.push v).ram.wf ramSize = true :=
  busWrite_wf _ v h

theorem State.pushAddr_wf {s : State} (w : Addr) (h : s.ram.wf ramSize = true) :
    (s.pushAddr w).ram.wf ramSize = true := State.push_wf _ (State.push_wf _ h)

/-- Each bit of a read of P (10_state.md R36, R37). -/
theorem Status.toByte_bits (p : Status) :
    p.toByte.getLsbD 7 = p.n ∧ p.toByte.getLsbD 6 = p.v ∧ p.toByte.getLsbD 5 = true ∧ p.toByte.getLsbD 4 = false ∧
    p.toByte.getLsbD 3 = p.d ∧ p.toByte.getLsbD 2 = p.i ∧ p.toByte.getLsbD 1 = p.z ∧ p.toByte.getLsbD 0 = p.c := by
  obtain ⟨n, v, d, i, z, c⟩ := p
  cases n <;> cases v <;> cases d <;> cases i <;> cases z <;> cases c <;> decide

/-- Pulling a pushed copy gives P back (10_state.md R37). -/
@[simp] theorem Status.ofPulled_pushed (p : Status) : Status.ofPulled p.pushed = p := by
  obtain ⟨n, v, d, i, z, c⟩ := p
  cases n <;> cases v <;> cases d <;> cases i <;> cases z <;> cases c <;> decide

/-- Every field after the trap entry (60_exceptions.md R311). -/
@[simp] theorem State.enterTrap_fields (s : State) (ret : Addr) :
    (s.enterTrap ret).a = s.a ∧ (s.enterTrap ret).x = s.x ∧ (s.enterTrap ret).y = s.y ∧
    (s.enterTrap ret).sp = s.sp - 1 - 1 - 1 ∧ (s.enterTrap ret).p = { s.p with i := true } ∧
    (s.enterTrap ret).pc = s.read16 brkVector ∧ (s.enterTrap ret).cart = s.cart ∧
    (s.enterTrap ret).fault = s.fault ∧ (s.enterTrap ret).cfg = s.cfg ∧
    (s.enterTrap ret).ram = ((s.pushAddr ret).push s.p.pushed).ram := by
  have hcart (w : Addr) (h : isCartridge w = true) : ((s.pushAddr ret).push s.p.pushed).read w = s.read w :=
    State.read_cartridge h (by simp)
  simp [State.enterTrap, State.read16, hcart brkVector (by decide), hcart (brkVector + 1#16) (by decide)]

/-- Every field after the return from a trap (60_exceptions.md R312). -/
@[simp] theorem State.returnFromTrap_fields (s : State) :
    s.returnFromTrap.a = s.a ∧ s.returnFromTrap.x = s.x ∧ s.returnFromTrap.y = s.y ∧
    s.returnFromTrap.sp = s.sp + 1 + 1 + 1 ∧ s.returnFromTrap.p = Status.ofPulled s.pulled ∧
    s.returnFromTrap.pc = s.afterPull.pulledAddr ∧ s.returnFromTrap.ram = s.ram ∧ s.returnFromTrap.cart = s.cart ∧
    s.returnFromTrap.fault = s.fault ∧ s.returnFromTrap.cfg = s.cfg := by
  simp [State.returnFromTrap, State.pulledAddr, State.pulled]

end Sys2Proof.Machine
end

