-- ==== Sys2Proof/Laws/Instr.lean ====
section
/-! SUPPORT. One lemma per field per operation the meanings share, and what a read gives after it, so that no later proof
unfolds them. -/

namespace Sys2Proof.Machine

variable (s : State)

/-- What a read gives after a pushed address. -/
@[simp] theorem State.pushAddr_read (w u : Addr) : (s.pushAddr w).read u =
    if sameRamByte (stackAddr (s.sp - 1)) u then lo8 w else if sameRamByte (stackAddr s.sp) u then hi8 w else s.read u := by
  rw [State.pushAddr, State.read_push, State.push_sp, State.read_push]

section writeAlu
@[simp] theorem State.writeAlu_a (o : AluResult) : (s.writeAlu o).a = o.result := rfl
@[simp] theorem State.writeAlu_x (o : AluResult) : (s.writeAlu o).x = s.x := rfl
@[simp] theorem State.writeAlu_y (o : AluResult) : (s.writeAlu o).y = s.y := rfl
@[simp] theorem State.writeAlu_sp (o : AluResult) : (s.writeAlu o).sp = s.sp := rfl
@[simp] theorem State.writeAlu_pc (o : AluResult) : (s.writeAlu o).pc = s.pc := rfl
@[simp] theorem State.writeAlu_p (o : AluResult) : (s.writeAlu o).p = s.p.withNVZC o := rfl
@[simp] theorem State.writeAlu_ram (o : AluResult) : (s.writeAlu o).ram = s.ram := rfl
@[simp] theorem State.writeAlu_cart (o : AluResult) : (s.writeAlu o).cart = s.cart := rfl
@[simp] theorem State.writeAlu_fault (o : AluResult) : (s.writeAlu o).fault = s.fault := rfl
@[simp] theorem State.writeAlu_cfg (o : AluResult) : (s.writeAlu o).cfg = s.cfg := rfl
@[simp] theorem State.writeAlu_read (o : AluResult) (u : Addr) : (s.writeAlu o).read u = s.read u := rfl
end writeAlu

section writeLogic
@[simp] theorem State.writeLogic_a (r : Byte) : (s.writeLogic r).a = r := rfl
@[simp] theorem State.writeLogic_x (r : Byte) : (s.writeLogic r).x = s.x := rfl
@[simp] theorem State.writeLogic_y (r : Byte) : (s.writeLogic r).y = s.y := rfl
@[simp] theorem State.writeLogic_sp (r : Byte) : (s.writeLogic r).sp = s.sp := rfl
@[simp] theorem State.writeLogic_pc (r : Byte) : (s.writeLogic r).pc = s.pc := rfl
@[simp] theorem State.writeLogic_p (r : Byte) : (s.writeLogic r).p = s.p.withNZ r := rfl
@[simp] theorem State.writeLogic_ram (r : Byte) : (s.writeLogic r).ram = s.ram := rfl
@[simp] theorem State.writeLogic_cart (r : Byte) : (s.writeLogic r).cart = s.cart := rfl
@[simp] theorem State.writeLogic_fault (r : Byte) : (s.writeLogic r).fault = s.fault := rfl
@[simp] theorem State.writeLogic_cfg (r : Byte) : (s.writeLogic r).cfg = s.cfg := rfl
@[simp] theorem State.writeLogic_read (r : Byte) (u : Addr) : (s.writeLogic r).read u = s.read u := rfl
end writeLogic

section writeBack
@[simp] theorem State.writeBack_a (w : Addr) (r : Byte) : (s.writeBack w r).a = s.a := rfl
@[simp] theorem State.writeBack_x (w : Addr) (r : Byte) : (s.writeBack w r).x = s.x := rfl
@[simp] theorem State.writeBack_y (w : Addr) (r : Byte) : (s.writeBack w r).y = s.y := rfl
@[simp] theorem State.writeBack_sp (w : Addr) (r : Byte) : (s.writeBack w r).sp = s.sp := rfl
@[simp] theorem State.writeBack_pc (w : Addr) (r : Byte) : (s.writeBack w r).pc = s.pc := rfl
@[simp] theorem State.writeBack_p (w : Addr) (r : Byte) : (s.writeBack w r).p = s.p.withNZ r := rfl
@[simp] theorem State.writeBack_ram (w : Addr) (r : Byte) : (s.writeBack w r).ram = busWrite s.ram w r := rfl
@[simp] theorem State.writeBack_cart (w : Addr) (r : Byte) : (s.writeBack w r).cart = s.cart := rfl
@[simp] theorem State.writeBack_fault (w : Addr) (r : Byte) : (s.writeBack w r).fault = s.fault := rfl
@[simp] theorem State.writeBack_cfg (w : Addr) (r : Byte) : (s.writeBack w r).cfg = s.cfg := rfl
@[simp] theorem State.writeBack_read (w : Addr) (r : Byte) (u : Addr) : (s.writeBack w r).read u = if sameRamByte w u then r else s.read u := s.read_write w u r
end writeBack

section branch
@[simp] theorem State.branch_a (c : Bool) (off : Byte) : (s.branch c off).a = s.a := by cases c <;> rfl
@[simp] theorem State.branch_x (c : Bool) (off : Byte) : (s.branch c off).x = s.x := by cases c <;> rfl
@[simp] theorem State.branch_y (c : Bool) (off : Byte) : (s.branch c off).y = s.y := by cases c <;> rfl
@[simp] theorem State.branch_sp (c : Bool) (off : Byte) : (s.branch c off).sp = s.sp := by cases c <;> rfl
@[simp] theorem State.branch_pc (c : Bool) (off : Byte) : (s.branch c off).pc = if c then branchTarget s.pc off else s.pc := by cases c <;> rfl
@[simp] theorem State.branch_p (c : Bool) (off : Byte) : (s.branch c off).p = s.p := by cases c <;> rfl
@[simp] theorem State.branch_ram (c : Bool) (off : Byte) : (s.branch c off).ram = s.ram := by cases c <;> rfl
@[simp] theorem State.branch_cart (c : Bool) (off : Byte) : (s.branch c off).cart = s.cart := by cases c <;> rfl
@[simp] theorem State.branch_fault (c : Bool) (off : Byte) : (s.branch c off).fault = s.fault := by cases c <;> rfl
@[simp] theorem State.branch_cfg (c : Bool) (off : Byte) : (s.branch c off).cfg = s.cfg := by cases c <;> rfl
@[simp] theorem State.branch_read (c : Bool) (off : Byte) (u : Addr) : (s.branch c off).read u = s.read u := by cases c <;> rfl
end branch

section writeShift
@[simp] theorem State.writeShift_a (o : ShiftOperand) (r : Byte) : (writeShift o r s).a = match o with | .acc => r | .mem _ => s.a := by cases o <;> rfl
@[simp] theorem State.writeShift_x (o : ShiftOperand) (r : Byte) : (writeShift o r s).x = s.x := by cases o <;> rfl
@[simp] theorem State.writeShift_y (o : ShiftOperand) (r : Byte) : (writeShift o r s).y = s.y := by cases o <;> rfl
@[simp] theorem State.writeShift_sp (o : ShiftOperand) (r : Byte) : (writeShift o r s).sp = s.sp := by cases o <;> rfl
@[simp] theorem State.writeShift_pc (o : ShiftOperand) (r : Byte) : (writeShift o r s).pc = s.pc := by cases o <;> rfl
@[simp] theorem State.writeShift_p (o : ShiftOperand) (r : Byte) : (writeShift o r s).p = s.p := by cases o <;> rfl
@[simp] theorem State.writeShift_ram (o : ShiftOperand) (r : Byte) : (writeShift o r s).ram = match o with | .acc => s.ram | .mem m => busWrite s.ram (effAddr m s) r := by cases o <;> rfl
@[simp] theorem State.writeShift_cart (o : ShiftOperand) (r : Byte) : (writeShift o r s).cart = s.cart := by cases o <;> rfl
@[simp] theorem State.writeShift_fault (o : ShiftOperand) (r : Byte) : (writeShift o r s).fault = s.fault := by cases o <;> rfl
@[simp] theorem State.writeShift_cfg (o : ShiftOperand) (r : Byte) : (writeShift o r s).cfg = s.cfg := by cases o <;> rfl
@[simp] theorem State.writeShift_read (o : ShiftOperand) (r : Byte) (u : Addr) : (writeShift o r s).read u = match o with | .acc => s.read u | .mem m => if sameRamByte (effAddr m s) u then r else s.read u := by
  cases o
  · rfl
  · exact s.read_write _ _ _
end writeShift

section finishShift
@[simp] theorem State.finishShift_a (o : ShiftOperand) (r : ShiftResult) : (s.finishShift o r).a = match o with | .acc => r.result | .mem _ => s.a := by cases o <;> rfl
@[simp] theorem State.finishShift_x (o : ShiftOperand) (r : ShiftResult) : (s.finishShift o r).x = s.x := by cases o <;> rfl
@[simp] theorem State.finishShift_y (o : ShiftOperand) (r : ShiftResult) : (s.finishShift o r).y = s.y := by cases o <;> rfl
@[simp] theorem State.finishShift_sp (o : ShiftOperand) (r : ShiftResult) : (s.finishShift o r).sp = s.sp := by cases o <;> rfl
@[simp] theorem State.finishShift_pc (o : ShiftOperand) (r : ShiftResult) : (s.finishShift o r).pc = s.pc := by cases o <;> rfl
@[simp] theorem State.finishShift_p (o : ShiftOperand) (r : ShiftResult) : (s.finishShift o r).p = s.p.withShift r := by cases o <;> rfl
@[simp] theorem State.finishShift_ram (o : ShiftOperand) (r : ShiftResult) : (s.finishShift o r).ram = match o with | .acc => s.ram | .mem m => busWrite s.ram (effAddr m s) r.result := by cases o <;> rfl
@[simp] theorem State.finishShift_cart (o : ShiftOperand) (r : ShiftResult) : (s.finishShift o r).cart = s.cart := by cases o <;> rfl
@[simp] theorem State.finishShift_fault (o : ShiftOperand) (r : ShiftResult) : (s.finishShift o r).fault = s.fault := by cases o <;> rfl
@[simp] theorem State.finishShift_cfg (o : ShiftOperand) (r : ShiftResult) : (s.finishShift o r).cfg = s.cfg := by cases o <;> rfl
@[simp] theorem State.finishShift_read (o : ShiftOperand) (r : ShiftResult) (u : Addr) : (s.finishShift o r).read u = match o with | .acc => s.read u | .mem m => if sameRamByte (effAddr m s) u then r.result else s.read u := by
  cases o
  · rfl
  · exact s.read_write _ _ _
end finishShift

section undocumentedNop
@[simp] theorem State.undocumentedNop_a (op : Byte) (n : Addr) : (undocumentedNop op n s).a = s.a := by unfold undocumentedNop; split <;> rfl
@[simp] theorem State.undocumentedNop_x (op : Byte) (n : Addr) : (undocumentedNop op n s).x = s.x := by unfold undocumentedNop; split <;> rfl
@[simp] theorem State.undocumentedNop_y (op : Byte) (n : Addr) : (undocumentedNop op n s).y = s.y := by unfold undocumentedNop; split <;> rfl
@[simp] theorem State.undocumentedNop_sp (op : Byte) (n : Addr) : (undocumentedNop op n s).sp = s.sp := by unfold undocumentedNop; split <;> rfl
@[simp] theorem State.undocumentedNop_pc (op : Byte) (n : Addr) : (undocumentedNop op n s).pc = if s.cfg.undocNopExec then s.pc else s.pc - n + 1 := by unfold undocumentedNop; split <;> rfl
@[simp] theorem State.undocumentedNop_p (op : Byte) (n : Addr) : (undocumentedNop op n s).p = s.p := by unfold undocumentedNop; split <;> rfl
@[simp] theorem State.undocumentedNop_ram (op : Byte) (n : Addr) : (undocumentedNop op n s).ram = s.ram := by unfold undocumentedNop; split <;> rfl
@[simp] theorem State.undocumentedNop_cart (op : Byte) (n : Addr) : (undocumentedNop op n s).cart = s.cart := by unfold undocumentedNop; split <;> rfl
@[simp] theorem State.undocumentedNop_fault (op : Byte) (n : Addr) : (undocumentedNop op n s).fault = if s.cfg.undocNopExec then s.fault else some { op := op, addr := s.pc - n } := by unfold undocumentedNop; split <;> rfl
@[simp] theorem State.undocumentedNop_cfg (op : Byte) (n : Addr) : (undocumentedNop op n s).cfg = s.cfg := by unfold undocumentedNop; split <;> rfl
@[simp] theorem State.undocumentedNop_read (op : Byte) (n : Addr) (u : Addr) : (undocumentedNop op n s).read u = s.read u := by unfold undocumentedNop; split <;> rfl
end undocumentedNop

@[simp] theorem State.enterTrap_read (ret u : Addr) : (s.enterTrap ret).read u =
    if sameRamByte (stackAddr (s.sp - 1 - 1)) u then s.p.pushed else (s.pushAddr ret).read u := by
  rw [State.read_congr (s := (s.pushAddr ret).push s.p.pushed) (by simp)
    (by simp), State.read_push, State.pushAddr_sp]

@[simp] theorem State.returnFromTrap_read (u : Addr) : s.returnFromTrap.read u = s.read u :=
  State.read_congr (by simp) (by simp) u

@[simp] theorem Status.withNVZC_d (p : Status) (o : AluResult) : (p.withNVZC o).d = p.d := rfl
@[simp] theorem Status.withNVZC_i (p : Status) (o : AluResult) : (p.withNVZC o).i = p.i := rfl
@[simp] theorem Status.withShift_v (p : Status) (o : ShiftResult) : (p.withShift o).v = p.v := rfl
@[simp] theorem Status.withShift_d (p : Status) (o : ShiftResult) : (p.withShift o).d = p.d := rfl
@[simp] theorem Status.withShift_i (p : Status) (o : ShiftResult) : (p.withShift o).i = p.i := rfl
@[simp] theorem Status.compare_v (p : Status) (r m : Byte) : (p.compare r m).v = p.v := rfl
@[simp] theorem Status.compare_d (p : Status) (r m : Byte) : (p.compare r m).d = p.d := rfl
@[simp] theorem Status.compare_i (p : Status) (r m : Byte) : (p.compare r m).i = p.i := rfl
@[simp] theorem Status.bitTest_d (p : Status) (a m : Byte) : (p.bitTest a m).d = p.d := rfl
@[simp] theorem Status.bitTest_i (p : Status) (a m : Byte) : (p.bitTest a m).i = p.i := rfl
@[simp] theorem Status.bitTest_c (p : Status) (a m : Byte) : (p.bitTest a m).c = p.c := rfl

end Sys2Proof.Machine
end

