-- ==== Sys2Proof/Laws/Exec.lean ====
section
/-! SUPPORT. What `exec` answers for each instruction, one equation each, so that no proof unfolds `exec`; and the two
cases of a step. -/

namespace Sys2Proof.Machine

variable (s : State)

@[simp] theorem exec_lda (o : ReadOperand) : exec (.lda o) s = .next ((s.setA (readValue o s)).setNZ (readValue o s)) := rfl
@[simp] theorem exec_ldx (o : ReadOperand) : exec (.ldx o) s = .next ((s.setX (readValue o s)).setNZ (readValue o s)) := rfl
@[simp] theorem exec_ldy (o : ReadOperand) : exec (.ldy o) s = .next ((s.setY (readValue o s)).setNZ (readValue o s)) := rfl
@[simp] theorem exec_sta (m : MemOperand) : exec (.sta m) s = .next (s.write (effAddr m s) s.a) := rfl
@[simp] theorem exec_stx (m : MemOperand) : exec (.stx m) s = .next (s.write (effAddr m s) s.x) := rfl
@[simp] theorem exec_sty (m : MemOperand) : exec (.sty m) s = .next (s.write (effAddr m s) s.y) := rfl
@[simp] theorem exec_tax : exec .tax s = .next ((s.setX s.a).setNZ s.a) := rfl
@[simp] theorem exec_tay : exec .tay s = .next ((s.setY s.a).setNZ s.a) := rfl
@[simp] theorem exec_txa : exec .txa s = .next ((s.setA s.x).setNZ s.x) := rfl
@[simp] theorem exec_tya : exec .tya s = .next ((s.setA s.y).setNZ s.y) := rfl
@[simp] theorem exec_tsx : exec .tsx s = .next ((s.setX s.sp).setNZ s.sp) := rfl
@[simp] theorem exec_txs : exec .txs s = .next (s.setSp s.x) := rfl
@[simp] theorem exec_pha : exec .pha s = .next (s.push s.a) := rfl
@[simp] theorem exec_php : exec .php s = .next (s.push s.p.pushed) := rfl
@[simp] theorem exec_pla : exec .pla s = .next ((s.afterPull.setA s.pulled).setNZ s.pulled) := rfl
@[simp] theorem exec_plp : exec .plp s = .next (s.afterPull.setP (Status.ofPulled s.pulled)) := rfl
@[simp] theorem exec_adc (o : ReadOperand) : exec (.adc o) s = .next (s.writeAlu (adcResult s.cfg s.p s.a (readValue o s))) := rfl
@[simp] theorem exec_sbc (o : ReadOperand) : exec (.sbc o) s = .next (s.writeAlu (sbcResult s.cfg s.p s.a (readValue o s))) := rfl
@[simp] theorem exec_and (o : ReadOperand) : exec (.and o) s = .next (s.writeLogic (s.a &&& readValue o s)) := rfl
@[simp] theorem exec_ora (o : ReadOperand) : exec (.ora o) s = .next (s.writeLogic (s.a ||| readValue o s)) := rfl
@[simp] theorem exec_eor (o : ReadOperand) : exec (.eor o) s = .next (s.writeLogic (s.a ^^^ readValue o s)) := rfl
@[simp] theorem exec_bit (m : MemOperand) : exec (.bit m) s = .next (s.setP (s.p.bitTest s.a (memValue m s))) := rfl
@[simp] theorem exec_cmp (o : ReadOperand) : exec (.cmp o) s = .next (s.setP (s.p.compare s.a (readValue o s))) := rfl
@[simp] theorem exec_cpx (o : ReadOperand) : exec (.cpx o) s = .next (s.setP (s.p.compare s.x (readValue o s))) := rfl
@[simp] theorem exec_cpy (o : ReadOperand) : exec (.cpy o) s = .next (s.setP (s.p.compare s.y (readValue o s))) := rfl
@[simp] theorem exec_inc (m : MemOperand) : exec (.inc m) s = .next (s.writeBack (effAddr m s) (memValue m s + 1)) := rfl
@[simp] theorem exec_dec (m : MemOperand) : exec (.dec m) s = .next (s.writeBack (effAddr m s) (memValue m s - 1)) := rfl
@[simp] theorem exec_inx : exec .inx s = .next ((s.setX (s.x + 1)).setNZ (s.x + 1)) := rfl
@[simp] theorem exec_iny : exec .iny s = .next ((s.setY (s.y + 1)).setNZ (s.y + 1)) := rfl
@[simp] theorem exec_dex : exec .dex s = .next ((s.setX (s.x - 1)).setNZ (s.x - 1)) := rfl
@[simp] theorem exec_dey : exec .dey s = .next ((s.setY (s.y - 1)).setNZ (s.y - 1)) := rfl
@[simp] theorem exec_asl (o : ShiftOperand) : exec (.asl o) s = .next (s.finishShift o (shiftLeft (shiftValue o s))) := rfl
@[simp] theorem exec_lsr (o : ShiftOperand) : exec (.lsr o) s = .next (s.finishShift o (shiftRight (shiftValue o s))) := rfl
@[simp] theorem exec_rol (o : ShiftOperand) : exec (.rol o) s = .next (s.finishShift o (rotateLeft (shiftValue o s) s.p.c)) := rfl
@[simp] theorem exec_ror (o : ShiftOperand) : exec (.ror o) s = .next (s.finishShift o (rotateRight (shiftValue o s) s.p.c)) := rfl
@[simp] theorem exec_bpl (off : Byte) : exec (.bpl off) s = .next (s.branch (!s.p.n) off) := rfl
@[simp] theorem exec_bmi (off : Byte) : exec (.bmi off) s = .next (s.branch s.p.n off) := rfl
@[simp] theorem exec_bvc (off : Byte) : exec (.bvc off) s = .next (s.branch (!s.p.v) off) := rfl
@[simp] theorem exec_bvs (off : Byte) : exec (.bvs off) s = .next (s.branch s.p.v off) := rfl
@[simp] theorem exec_bcc (off : Byte) : exec (.bcc off) s = .next (s.branch (!s.p.c) off) := rfl
@[simp] theorem exec_bcs (off : Byte) : exec (.bcs off) s = .next (s.branch s.p.c off) := rfl
@[simp] theorem exec_bne (off : Byte) : exec (.bne off) s = .next (s.branch (!s.p.z) off) := rfl
@[simp] theorem exec_beq (off : Byte) : exec (.beq off) s = .next (s.branch s.p.z off) := rfl
@[simp] theorem exec_jmp (t : JumpOperand) : exec (.jmp t) s = .next (s.setPc (jumpTarget t s)) := rfl
@[simp] theorem exec_jsr (target : Addr) : exec (.jsr target) s = .next ((s.pushAddr (s.pc - 1)).setPc target) := rfl
@[simp] theorem exec_rts : exec .rts s = .next (s.afterPull.afterPull.setPc (s.pulledAddr + 1)) := rfl
@[simp] theorem exec_brk : exec .brk s = .next (s.enterTrap (s.pc + 1)) := rfl
@[simp] theorem exec_rti : exec .rti s = .next s.returnFromTrap := rfl
@[simp] theorem exec_clc : exec .clc s = .next (s.setP { s.p with c := false }) := rfl
@[simp] theorem exec_sec : exec .sec s = .next (s.setP { s.p with c := true }) := rfl
@[simp] theorem exec_cli : exec .cli s = .next (s.setP { s.p with i := false }) := rfl
@[simp] theorem exec_sei : exec .sei s = .next (s.setP { s.p with i := true }) := rfl
@[simp] theorem exec_cld : exec .cld s = .next (s.setP { s.p with d := false }) := rfl
@[simp] theorem exec_sed : exec .sed s = .next (s.setP { s.p with d := true }) := rfl
@[simp] theorem exec_clv : exec .clv s = .next (s.setP { s.p with v := false }) := rfl
@[simp] theorem exec_nop : exec .nop s = .next s := rfl
@[simp] theorem exec_nopImp (op : Byte) : exec (.nopImp op) s = .next (undocumentedNop op 1 s) := rfl
@[simp] theorem exec_nopImm (op v : Byte) : exec (.nopImm op v) s = .next (undocumentedNop op 2 s) := rfl
@[simp] theorem exec_nopZp (op z : Byte) : exec (.nopZp op z) s = .next (undocumentedNop op 2 s) := rfl
@[simp] theorem exec_nopZpX (op z : Byte) : exec (.nopZpX op z) s = .next (undocumentedNop op 2 s) := rfl
@[simp] theorem exec_nopAbs (w : Addr) : exec (.nopAbs w) s = .next (undocumentedNop 0x0C 3 s) := rfl
@[simp] theorem exec_nopAbsX (op : Byte) (w : Addr) : exec (.nopAbsX op w) s = .next (undocumentedNop op 3 s) := rfl
@[simp] theorem exec_illegal (op : Byte) : exec (.illegal op) s = .next (s.raiseIllegalOpcode op (s.pc - 1)) := rfl

/-- Every instruction completes from every state: no meaning stops. -/
theorem exec_next (i : Instr) : ∃ t, exec i s = .next t := by cases i <;> exact ⟨_, rfl⟩

/-- A step of a running machine executes the fetched instruction with PC at the fall-through address. -/
theorem step_of_running {s : State} (h : s.fault = none) : step s = exec s.fetchInstr (s.setPc s.fallThrough) := by
  simp [step, h]

/-- A faulted machine has no step (60_exceptions.md R302). -/
theorem step_of_fault {s : State} {f : FaultRecord} (h : s.fault = some f) :
    step s = .fault (.illegalOpcode f.op f.addr) := by
  simp [step, h]

/-- A step that answers a next state ran from a machine with no fault. -/
theorem step_next {s t : State} (h : step s = .next t) :
    s.fault = none ∧ exec s.fetchInstr (s.setPc s.fallThrough) = .next t := by
  cases hf : s.fault with
  | none => exact ⟨rfl, by rwa [step_of_running hf] at h⟩
  | some f => rw [step_of_fault hf] at h; cases h

end Sys2Proof.Machine
end

