-- ==== Sys2Proof/Laws/Fetch.lean ====
section
/-! SUPPORT. Placing bytes keeps both storages in canonical form and touches nothing else. -/

namespace Sys2Proof.Machine

theorem prgIndex_lt {cart : Cartridge} (h : cart.wf = true) (w : Addr) : prgIndex cart w < cart.prgLen := by
  simp only [Cartridge.wf, Bool.and_eq_true, decide_eq_true_eq] at h
  exact Nat.mod_lt _ (by unfold Cartridge.prgLen prgBankSize; omega)

theorem State.place_ram_wf {s : State} (w : Addr) (v : Byte) (h : s.ram.wf ramSize = true) :
    (s.place w v).ram.wf ramSize = true := by
  unfold State.place
  split
  · exact Memory.wf_write (ramIndex_lt w) v h
  · split <;> exact h

theorem State.place_cart_wf {s : State} (w : Addr) (v : Byte) (h : s.cart.wf = true) : (s.place w v).cart.wf = true := by
  unfold State.place
  split
  · exact h
  · split
    · have hk := prgIndex_lt h w
      simp only [Cartridge.wf, Bool.and_eq_true, Cartridge.prgLen, Cartridge.chrLen] at h hk ⊢
      exact ⟨⟨h.1.1, Memory.wf_write hk v h.1.2⟩, h.2⟩
    · exact h

@[simp] theorem State.place_pc (s : State) (w : Addr) (v : Byte) : (s.place w v).pc = s.pc := by
  unfold State.place; split <;> [rfl; split <;> rfl]

@[simp] theorem State.place_fault (s : State) (w : Addr) (v : Byte) : (s.place w v).fault = s.fault := by
  unfold State.place; split <;> [rfl; split <;> rfl]

theorem State.placeAll_wf {s : State} (w : Addr) (bs : List Byte) (hr : s.ram.wf ramSize = true) (hc : s.cart.wf = true) :
    (s.placeAll w bs).ram.wf ramSize = true ∧ (s.placeAll w bs).cart.wf = true := by
  induction bs generalizing s w with
  | nil => exact ⟨hr, hc⟩
  | cons b bs ih => exact ih (w + 1) (State.place_ram_wf w b hr) (State.place_cart_wf w b hc)

end Sys2Proof.Machine
end

