-- ==== Sys2Proof/Laws/PerInstr.lean ====
section
/-! SUPPORT. Families of facts about every instruction as syntax, one lemma per constructor. -/

namespace Sys2Proof.Laws

open Sys2Proof

/-- A well-formed instruction is 1 to 3 bytes long and its encoding has that length (30_encoding.md R100, R101). -/
def EncodeLength.Statement (i : Instr) : Prop :=
  i.wellFormed = true → (encode i).length = instrLength i ∧ instrLength i ≤ 3

/-- A well-formed instruction has an opcode byte, and the table gives that byte as many operand bytes as the
instruction has (30_encoding.md R100, R104). -/
def TableRow.Statement (i : Instr) : Prop :=
  i.wellFormed = true → ∃ op, opcode i = some op ∧ operandCount op = (operandBytes i).length

/-- The list membership a well-formed undocumented NOP or illegal byte carries. -/
theorem contains_iff_mem (l : List Byte) (op : Byte) : l.contains op = true ↔ op ∈ l := by simp

/-- The undocumented NOP bytes and the illegal bytes have the operand bytes of their mode (30_encoding.md R108, R109). -/
theorem operandCount_of_mem :
    (∀ op ∈ nopImpBytes, operandCount op = 0) ∧ (∀ op ∈ nopImmBytes, operandCount op = 1) ∧
    (∀ op ∈ nopZpBytes, operandCount op = 1) ∧ (∀ op ∈ nopZpXBytes, operandCount op = 1) ∧
    (∀ op ∈ nopAbsXBytes, operandCount op = 2) ∧ (∀ op ∈ illegalBytes, operandCount op = 0) := by
  decide

theorem TableRow.lda (o : ReadOperand) : TableRow.Statement (.lda o) := by
  intro h
  rcases o with v | (_ | _ | _ | _ | _ | _ | _ | _) <;>
    first | exact ⟨_, rfl, rfl⟩ | cases h

theorem TableRow.ldx (o : ReadOperand) : TableRow.Statement (.ldx o) := by
  intro h
  rcases o with v | (_ | _ | _ | _ | _ | _ | _ | _) <;>
    first | exact ⟨_, rfl, rfl⟩ | cases h

theorem TableRow.ldy (o : ReadOperand) : TableRow.Statement (.ldy o) := by
  intro h
  rcases o with v | (_ | _ | _ | _ | _ | _ | _ | _) <;>
    first | exact ⟨_, rfl, rfl⟩ | cases h

theorem TableRow.sta (m : MemOperand) : TableRow.Statement (.sta m) := by
  intro h
  cases m <;> first | exact ⟨_, rfl, rfl⟩ | cases h

theorem TableRow.stx (m : MemOperand) : TableRow.Statement (.stx m) := by
  intro h
  cases m <;> first | exact ⟨_, rfl, rfl⟩ | cases h

theorem TableRow.sty (m : MemOperand) : TableRow.Statement (.sty m) := by
  intro h
  cases m <;> first | exact ⟨_, rfl, rfl⟩ | cases h

theorem TableRow.tax : TableRow.Statement .tax := by
  exact fun _ => ⟨_, rfl, rfl⟩

theorem TableRow.tay : TableRow.Statement .tay := by
  exact fun _ => ⟨_, rfl, rfl⟩

theorem TableRow.txa : TableRow.Statement .txa := by
  exact fun _ => ⟨_, rfl, rfl⟩

theorem TableRow.tya : TableRow.Statement .tya := by
  exact fun _ => ⟨_, rfl, rfl⟩

theorem TableRow.tsx : TableRow.Statement .tsx := by
  exact fun _ => ⟨_, rfl, rfl⟩

theorem TableRow.txs : TableRow.Statement .txs := by
  exact fun _ => ⟨_, rfl, rfl⟩

theorem TableRow.pha : TableRow.Statement .pha := by
  exact fun _ => ⟨_, rfl, rfl⟩

theorem TableRow.php : TableRow.Statement .php := by
  exact fun _ => ⟨_, rfl, rfl⟩

theorem TableRow.pla : TableRow.Statement .pla := by
  exact fun _ => ⟨_, rfl, rfl⟩

theorem TableRow.plp : TableRow.Statement .plp := by
  exact fun _ => ⟨_, rfl, rfl⟩

theorem TableRow.adc (o : ReadOperand) : TableRow.Statement (.adc o) := by
  intro h
  rcases o with v | (_ | _ | _ | _ | _ | _ | _ | _) <;>
    first | exact ⟨_, rfl, rfl⟩ | cases h

theorem TableRow.sbc (o : ReadOperand) : TableRow.Statement (.sbc o) := by
  intro h
  rcases o with v | (_ | _ | _ | _ | _ | _ | _ | _) <;>
    first | exact ⟨_, rfl, rfl⟩ | cases h

theorem TableRow.and (o : ReadOperand) : TableRow.Statement (.and o) := by
  intro h
  rcases o with v | (_ | _ | _ | _ | _ | _ | _ | _) <;>
    first | exact ⟨_, rfl, rfl⟩ | cases h

theorem TableRow.ora (o : ReadOperand) : TableRow.Statement (.ora o) := by
  intro h
  rcases o with v | (_ | _ | _ | _ | _ | _ | _ | _) <;>
    first | exact ⟨_, rfl, rfl⟩ | cases h

theorem TableRow.eor (o : ReadOperand) : TableRow.Statement (.eor o) := by
  intro h
  rcases o with v | (_ | _ | _ | _ | _ | _ | _ | _) <;>
    first | exact ⟨_, rfl, rfl⟩ | cases h

theorem TableRow.bit (m : MemOperand) : TableRow.Statement (.bit m) := by
  intro h
  cases m <;> first | exact ⟨_, rfl, rfl⟩ | cases h

theorem TableRow.cmp (o : ReadOperand) : TableRow.Statement (.cmp o) := by
  intro h
  rcases o with v | (_ | _ | _ | _ | _ | _ | _ | _) <;>
    first | exact ⟨_, rfl, rfl⟩ | cases h

theorem TableRow.cpx (o : ReadOperand) : TableRow.Statement (.cpx o) := by
  intro h
  rcases o with v | (_ | _ | _ | _ | _ | _ | _ | _) <;>
    first | exact ⟨_, rfl, rfl⟩ | cases h

theorem TableRow.cpy (o : ReadOperand) : TableRow.Statement (.cpy o) := by
  intro h
  rcases o with v | (_ | _ | _ | _ | _ | _ | _ | _) <;>
    first | exact ⟨_, rfl, rfl⟩ | cases h

theorem TableRow.inc (m : MemOperand) : TableRow.Statement (.inc m) := by
  intro h
  cases m <;> first | exact ⟨_, rfl, rfl⟩ | cases h

theorem TableRow.dec (m : MemOperand) : TableRow.Statement (.dec m) := by
  intro h
  cases m <;> first | exact ⟨_, rfl, rfl⟩ | cases h

theorem TableRow.inx : TableRow.Statement .inx := by
  exact fun _ => ⟨_, rfl, rfl⟩

theorem TableRow.iny : TableRow.Statement .iny := by
  exact fun _ => ⟨_, rfl, rfl⟩

theorem TableRow.dex : TableRow.Statement .dex := by
  exact fun _ => ⟨_, rfl, rfl⟩

theorem TableRow.dey : TableRow.Statement .dey := by
  exact fun _ => ⟨_, rfl, rfl⟩

theorem TableRow.asl (o : ShiftOperand) : TableRow.Statement (.asl o) := by
  intro h
  rcases o with _ | (_ | _ | _ | _ | _ | _ | _ | _) <;>
    first | exact ⟨_, rfl, rfl⟩ | cases h

theorem TableRow.lsr (o : ShiftOperand) : TableRow.Statement (.lsr o) := by
  intro h
  rcases o with _ | (_ | _ | _ | _ | _ | _ | _ | _) <;>
    first | exact ⟨_, rfl, rfl⟩ | cases h

theorem TableRow.rol (o : ShiftOperand) : TableRow.Statement (.rol o) := by
  intro h
  rcases o with _ | (_ | _ | _ | _ | _ | _ | _ | _) <;>
    first | exact ⟨_, rfl, rfl⟩ | cases h

theorem TableRow.ror (o : ShiftOperand) : TableRow.Statement (.ror o) := by
  intro h
  rcases o with _ | (_ | _ | _ | _ | _ | _ | _ | _) <;>
    first | exact ⟨_, rfl, rfl⟩ | cases h

theorem TableRow.bpl (off : Byte) : TableRow.Statement (.bpl off) := by
  exact fun _ => ⟨_, rfl, rfl⟩

theorem TableRow.bmi (off : Byte) : TableRow.Statement (.bmi off) := by
  exact fun _ => ⟨_, rfl, rfl⟩

theorem TableRow.bvc (off : Byte) : TableRow.Statement (.bvc off) := by
  exact fun _ => ⟨_, rfl, rfl⟩

theorem TableRow.bvs (off : Byte) : TableRow.Statement (.bvs off) := by
  exact fun _ => ⟨_, rfl, rfl⟩

theorem TableRow.bcc (off : Byte) : TableRow.Statement (.bcc off) := by
  exact fun _ => ⟨_, rfl, rfl⟩

theorem TableRow.bcs (off : Byte) : TableRow.Statement (.bcs off) := by
  exact fun _ => ⟨_, rfl, rfl⟩

theorem TableRow.bne (off : Byte) : TableRow.Statement (.bne off) := by
  exact fun _ => ⟨_, rfl, rfl⟩

theorem TableRow.beq (off : Byte) : TableRow.Statement (.beq off) := by
  exact fun _ => ⟨_, rfl, rfl⟩

theorem TableRow.jmp (t : JumpOperand) : TableRow.Statement (.jmp t) := by
  cases t <;> exact fun _ => ⟨_, rfl, rfl⟩

theorem TableRow.jsr (target : Addr) : TableRow.Statement (.jsr target) := by
  exact fun _ => ⟨_, rfl, rfl⟩

theorem TableRow.rts : TableRow.Statement .rts := by
  exact fun _ => ⟨_, rfl, rfl⟩

theorem TableRow.brk : TableRow.Statement .brk := by
  exact fun _ => ⟨_, rfl, rfl⟩

theorem TableRow.rti : TableRow.Statement .rti := by
  exact fun _ => ⟨_, rfl, rfl⟩

theorem TableRow.clc : TableRow.Statement .clc := by
  exact fun _ => ⟨_, rfl, rfl⟩

theorem TableRow.sec : TableRow.Statement .sec := by
  exact fun _ => ⟨_, rfl, rfl⟩

theorem TableRow.cli : TableRow.Statement .cli := by
  exact fun _ => ⟨_, rfl, rfl⟩

theorem TableRow.sei : TableRow.Statement .sei := by
  exact fun _ => ⟨_, rfl, rfl⟩

theorem TableRow.cld : TableRow.Statement .cld := by
  exact fun _ => ⟨_, rfl, rfl⟩

theorem TableRow.sed : TableRow.Statement .sed := by
  exact fun _ => ⟨_, rfl, rfl⟩

theorem TableRow.clv : TableRow.Statement .clv := by
  exact fun _ => ⟨_, rfl, rfl⟩

theorem TableRow.nop : TableRow.Statement .nop := by
  exact fun _ => ⟨_, rfl, rfl⟩

theorem TableRow.nopImp (op : Byte) : TableRow.Statement (.nopImp op) := by
  intro h
  exact ⟨op, if_pos h, operandCount_of_mem.1 op ((contains_iff_mem _ _).mp h)⟩

theorem TableRow.nopImm (op v : Byte) : TableRow.Statement (.nopImm op v) := by
  intro h
  exact ⟨op, if_pos h, operandCount_of_mem.2.1 op ((contains_iff_mem _ _).mp h)⟩

theorem TableRow.nopZp (op z : Byte) : TableRow.Statement (.nopZp op z) := by
  intro h
  exact ⟨op, if_pos h, operandCount_of_mem.2.2.1 op ((contains_iff_mem _ _).mp h)⟩

theorem TableRow.nopZpX (op z : Byte) : TableRow.Statement (.nopZpX op z) := by
  intro h
  exact ⟨op, if_pos h, operandCount_of_mem.2.2.2.1 op ((contains_iff_mem _ _).mp h)⟩

theorem TableRow.nopAbs (w : Addr) : TableRow.Statement (.nopAbs w) := by
  exact fun _ => ⟨_, rfl, rfl⟩

theorem TableRow.nopAbsX (op : Byte) (w : Addr) : TableRow.Statement (.nopAbsX op w) := by
  intro h
  exact ⟨op, if_pos h, operandCount_of_mem.2.2.2.2.1 op ((contains_iff_mem _ _).mp h)⟩

theorem TableRow.illegal (op : Byte) : TableRow.Statement (.illegal op) := by
  intro h
  exact ⟨op, if_pos h, operandCount_of_mem.2.2.2.2.2 op ((contains_iff_mem _ _).mp h)⟩

theorem encode_length {i : Instr} {op : Byte} (h : opcode i = some op) : (encode i).length = instrLength i := by
  simp [encode, h, instrLength]
  omega

theorem EncodeLength.lda (o : ReadOperand) : EncodeLength.Statement (.lda o) := by
  intro h
  obtain ⟨op, hop, hn⟩ := TableRow.lda o h
  exact ⟨encode_length hop, by have := operandCount_le_two op; simp only [instrLength]; omega⟩

theorem EncodeLength.ldx (o : ReadOperand) : EncodeLength.Statement (.ldx o) := by
  intro h
  obtain ⟨op, hop, hn⟩ := TableRow.ldx o h
  exact ⟨encode_length hop, by have := operandCount_le_two op; simp only [instrLength]; omega⟩

theorem EncodeLength.ldy (o : ReadOperand) : EncodeLength.Statement (.ldy o) := by
  intro h
  obtain ⟨op, hop, hn⟩ := TableRow.ldy o h
  exact ⟨encode_length hop, by have := operandCount_le_two op; simp only [instrLength]; omega⟩

theorem EncodeLength.sta (m : MemOperand) : EncodeLength.Statement (.sta m) := by
  intro h
  obtain ⟨op, hop, hn⟩ := TableRow.sta m h
  exact ⟨encode_length hop, by have := operandCount_le_two op; simp only [instrLength]; omega⟩

theorem EncodeLength.stx (m : MemOperand) : EncodeLength.Statement (.stx m) := by
  intro h
  obtain ⟨op, hop, hn⟩ := TableRow.stx m h
  exact ⟨encode_length hop, by have := operandCount_le_two op; simp only [instrLength]; omega⟩

theorem EncodeLength.sty (m : MemOperand) : EncodeLength.Statement (.sty m) := by
  intro h
  obtain ⟨op, hop, hn⟩ := TableRow.sty m h
  exact ⟨encode_length hop, by have := operandCount_le_two op; simp only [instrLength]; omega⟩

theorem EncodeLength.tax : EncodeLength.Statement .tax := by
  intro h
  obtain ⟨op, hop, hn⟩ := TableRow.tax h
  exact ⟨encode_length hop, by have := operandCount_le_two op; simp only [instrLength]; omega⟩

theorem EncodeLength.tay : EncodeLength.Statement .tay := by
  intro h
  obtain ⟨op, hop, hn⟩ := TableRow.tay h
  exact ⟨encode_length hop, by have := operandCount_le_two op; simp only [instrLength]; omega⟩

theorem EncodeLength.txa : EncodeLength.Statement .txa := by
  intro h
  obtain ⟨op, hop, hn⟩ := TableRow.txa h
  exact ⟨encode_length hop, by have := operandCount_le_two op; simp only [instrLength]; omega⟩

theorem EncodeLength.tya : EncodeLength.Statement .tya := by
  intro h
  obtain ⟨op, hop, hn⟩ := TableRow.tya h
  exact ⟨encode_length hop, by have := operandCount_le_two op; simp only [instrLength]; omega⟩

theorem EncodeLength.tsx : EncodeLength.Statement .tsx := by
  intro h
  obtain ⟨op, hop, hn⟩ := TableRow.tsx h
  exact ⟨encode_length hop, by have := operandCount_le_two op; simp only [instrLength]; omega⟩

theorem EncodeLength.txs : EncodeLength.Statement .txs := by
  intro h
  obtain ⟨op, hop, hn⟩ := TableRow.txs h
  exact ⟨encode_length hop, by have := operandCount_le_two op; simp only [instrLength]; omega⟩

theorem EncodeLength.pha : EncodeLength.Statement .pha := by
  intro h
  obtain ⟨op, hop, hn⟩ := TableRow.pha h
  exact ⟨encode_length hop, by have := operandCount_le_two op; simp only [instrLength]; omega⟩

theorem EncodeLength.php : EncodeLength.Statement .php := by
  intro h
  obtain ⟨op, hop, hn⟩ := TableRow.php h
  exact ⟨encode_length hop, by have := operandCount_le_two op; simp only [instrLength]; omega⟩

theorem EncodeLength.pla : EncodeLength.Statement .pla := by
  intro h
  obtain ⟨op, hop, hn⟩ := TableRow.pla h
  exact ⟨encode_length hop, by have := operandCount_le_two op; simp only [instrLength]; omega⟩

theorem EncodeLength.plp : EncodeLength.Statement .plp := by
  intro h
  obtain ⟨op, hop, hn⟩ := TableRow.plp h
  exact ⟨encode_length hop, by have := operandCount_le_two op; simp only [instrLength]; omega⟩

theorem EncodeLength.adc (o : ReadOperand) : EncodeLength.Statement (.adc o) := by
  intro h
  obtain ⟨op, hop, hn⟩ := TableRow.adc o h
  exact ⟨encode_length hop, by have := operandCount_le_two op; simp only [instrLength]; omega⟩

theorem EncodeLength.sbc (o : ReadOperand) : EncodeLength.Statement (.sbc o) := by
  intro h
  obtain ⟨op, hop, hn⟩ := TableRow.sbc o h
  exact ⟨encode_length hop, by have := operandCount_le_two op; simp only [instrLength]; omega⟩

theorem EncodeLength.and (o : ReadOperand) : EncodeLength.Statement (.and o) := by
  intro h
  obtain ⟨op, hop, hn⟩ := TableRow.and o h
  exact ⟨encode_length hop, by have := operandCount_le_two op; simp only [instrLength]; omega⟩

theorem EncodeLength.ora (o : ReadOperand) : EncodeLength.Statement (.ora o) := by
  intro h
  obtain ⟨op, hop, hn⟩ := TableRow.ora o h
  exact ⟨encode_length hop, by have := operandCount_le_two op; simp only [instrLength]; omega⟩

theorem EncodeLength.eor (o : ReadOperand) : EncodeLength.Statement (.eor o) := by
  intro h
  obtain ⟨op, hop, hn⟩ := TableRow.eor o h
  exact ⟨encode_length hop, by have := operandCount_le_two op; simp only [instrLength]; omega⟩

theorem EncodeLength.bit (m : MemOperand) : EncodeLength.Statement (.bit m) := by
  intro h
  obtain ⟨op, hop, hn⟩ := TableRow.bit m h
  exact ⟨encode_length hop, by have := operandCount_le_two op; simp only [instrLength]; omega⟩

theorem EncodeLength.cmp (o : ReadOperand) : EncodeLength.Statement (.cmp o) := by
  intro h
  obtain ⟨op, hop, hn⟩ := TableRow.cmp o h
  exact ⟨encode_length hop, by have := operandCount_le_two op; simp only [instrLength]; omega⟩

theorem EncodeLength.cpx (o : ReadOperand) : EncodeLength.Statement (.cpx o) := by
  intro h
  obtain ⟨op, hop, hn⟩ := TableRow.cpx o h
  exact ⟨encode_length hop, by have := operandCount_le_two op; simp only [instrLength]; omega⟩

theorem EncodeLength.cpy (o : ReadOperand) : EncodeLength.Statement (.cpy o) := by
  intro h
  obtain ⟨op, hop, hn⟩ := TableRow.cpy o h
  exact ⟨encode_length hop, by have := operandCount_le_two op; simp only [instrLength]; omega⟩

theorem EncodeLength.inc (m : MemOperand) : EncodeLength.Statement (.inc m) := by
  intro h
  obtain ⟨op, hop, hn⟩ := TableRow.inc m h
  exact ⟨encode_length hop, by have := operandCount_le_two op; simp only [instrLength]; omega⟩

theorem EncodeLength.dec (m : MemOperand) : EncodeLength.Statement (.dec m) := by
  intro h
  obtain ⟨op, hop, hn⟩ := TableRow.dec m h
  exact ⟨encode_length hop, by have := operandCount_le_two op; simp only [instrLength]; omega⟩

theorem EncodeLength.inx : EncodeLength.Statement .inx := by
  intro h
  obtain ⟨op, hop, hn⟩ := TableRow.inx h
  exact ⟨encode_length hop, by have := operandCount_le_two op; simp only [instrLength]; omega⟩

theorem EncodeLength.iny : EncodeLength.Statement .iny := by
  intro h
  obtain ⟨op, hop, hn⟩ := TableRow.iny h
  exact ⟨encode_length hop, by have := operandCount_le_two op; simp only [instrLength]; omega⟩

theorem EncodeLength.dex : EncodeLength.Statement .dex := by
  intro h
  obtain ⟨op, hop, hn⟩ := TableRow.dex h
  exact ⟨encode_length hop, by have := operandCount_le_two op; simp only [instrLength]; omega⟩

theorem EncodeLength.dey : EncodeLength.Statement .dey := by
  intro h
  obtain ⟨op, hop, hn⟩ := TableRow.dey h
  exact ⟨encode_length hop, by have := operandCount_le_two op; simp only [instrLength]; omega⟩

theorem EncodeLength.asl (o : ShiftOperand) : EncodeLength.Statement (.asl o) := by
  intro h
  obtain ⟨op, hop, hn⟩ := TableRow.asl o h
  exact ⟨encode_length hop, by have := operandCount_le_two op; simp only [instrLength]; omega⟩

theorem EncodeLength.lsr (o : ShiftOperand) : EncodeLength.Statement (.lsr o) := by
  intro h
  obtain ⟨op, hop, hn⟩ := TableRow.lsr o h
  exact ⟨encode_length hop, by have := operandCount_le_two op; simp only [instrLength]; omega⟩

theorem EncodeLength.rol (o : ShiftOperand) : EncodeLength.Statement (.rol o) := by
  intro h
  obtain ⟨op, hop, hn⟩ := TableRow.rol o h
  exact ⟨encode_length hop, by have := operandCount_le_two op; simp only [instrLength]; omega⟩

theorem EncodeLength.ror (o : ShiftOperand) : EncodeLength.Statement (.ror o) := by
  intro h
  obtain ⟨op, hop, hn⟩ := TableRow.ror o h
  exact ⟨encode_length hop, by have := operandCount_le_two op; simp only [instrLength]; omega⟩

theorem EncodeLength.bpl (off : Byte) : EncodeLength.Statement (.bpl off) := by
  intro h
  obtain ⟨op, hop, hn⟩ := TableRow.bpl off h
  exact ⟨encode_length hop, by have := operandCount_le_two op; simp only [instrLength]; omega⟩

theorem EncodeLength.bmi (off : Byte) : EncodeLength.Statement (.bmi off) := by
  intro h
  obtain ⟨op, hop, hn⟩ := TableRow.bmi off h
  exact ⟨encode_length hop, by have := operandCount_le_two op; simp only [instrLength]; omega⟩

theorem EncodeLength.bvc (off : Byte) : EncodeLength.Statement (.bvc off) := by
  intro h
  obtain ⟨op, hop, hn⟩ := TableRow.bvc off h
  exact ⟨encode_length hop, by have := operandCount_le_two op; simp only [instrLength]; omega⟩

theorem EncodeLength.bvs (off : Byte) : EncodeLength.Statement (.bvs off) := by
  intro h
  obtain ⟨op, hop, hn⟩ := TableRow.bvs off h
  exact ⟨encode_length hop, by have := operandCount_le_two op; simp only [instrLength]; omega⟩

theorem EncodeLength.bcc (off : Byte) : EncodeLength.Statement (.bcc off) := by
  intro h
  obtain ⟨op, hop, hn⟩ := TableRow.bcc off h
  exact ⟨encode_length hop, by have := operandCount_le_two op; simp only [instrLength]; omega⟩

theorem EncodeLength.bcs (off : Byte) : EncodeLength.Statement (.bcs off) := by
  intro h
  obtain ⟨op, hop, hn⟩ := TableRow.bcs off h
  exact ⟨encode_length hop, by have := operandCount_le_two op; simp only [instrLength]; omega⟩

theorem EncodeLength.bne (off : Byte) : EncodeLength.Statement (.bne off) := by
  intro h
  obtain ⟨op, hop, hn⟩ := TableRow.bne off h
  exact ⟨encode_length hop, by have := operandCount_le_two op; simp only [instrLength]; omega⟩

theorem EncodeLength.beq (off : Byte) : EncodeLength.Statement (.beq off) := by
  intro h
  obtain ⟨op, hop, hn⟩ := TableRow.beq off h
  exact ⟨encode_length hop, by have := operandCount_le_two op; simp only [instrLength]; omega⟩

theorem EncodeLength.jmp (t : JumpOperand) : EncodeLength.Statement (.jmp t) := by
  intro h
  obtain ⟨op, hop, hn⟩ := TableRow.jmp t h
  exact ⟨encode_length hop, by have := operandCount_le_two op; simp only [instrLength]; omega⟩

theorem EncodeLength.jsr (target : Addr) : EncodeLength.Statement (.jsr target) := by
  intro h
  obtain ⟨op, hop, hn⟩ := TableRow.jsr target h
  exact ⟨encode_length hop, by have := operandCount_le_two op; simp only [instrLength]; omega⟩

theorem EncodeLength.rts : EncodeLength.Statement .rts := by
  intro h
  obtain ⟨op, hop, hn⟩ := TableRow.rts h
  exact ⟨encode_length hop, by have := operandCount_le_two op; simp only [instrLength]; omega⟩

theorem EncodeLength.brk : EncodeLength.Statement .brk := by
  intro h
  obtain ⟨op, hop, hn⟩ := TableRow.brk h
  exact ⟨encode_length hop, by have := operandCount_le_two op; simp only [instrLength]; omega⟩

theorem EncodeLength.rti : EncodeLength.Statement .rti := by
  intro h
  obtain ⟨op, hop, hn⟩ := TableRow.rti h
  exact ⟨encode_length hop, by have := operandCount_le_two op; simp only [instrLength]; omega⟩

theorem EncodeLength.clc : EncodeLength.Statement .clc := by
  intro h
  obtain ⟨op, hop, hn⟩ := TableRow.clc h
  exact ⟨encode_length hop, by have := operandCount_le_two op; simp only [instrLength]; omega⟩

theorem EncodeLength.sec : EncodeLength.Statement .sec := by
  intro h
  obtain ⟨op, hop, hn⟩ := TableRow.sec h
  exact ⟨encode_length hop, by have := operandCount_le_two op; simp only [instrLength]; omega⟩

theorem EncodeLength.cli : EncodeLength.Statement .cli := by
  intro h
  obtain ⟨op, hop, hn⟩ := TableRow.cli h
  exact ⟨encode_length hop, by have := operandCount_le_two op; simp only [instrLength]; omega⟩

theorem EncodeLength.sei : EncodeLength.Statement .sei := by
  intro h
  obtain ⟨op, hop, hn⟩ := TableRow.sei h
  exact ⟨encode_length hop, by have := operandCount_le_two op; simp only [instrLength]; omega⟩

theorem EncodeLength.cld : EncodeLength.Statement .cld := by
  intro h
  obtain ⟨op, hop, hn⟩ := TableRow.cld h
  exact ⟨encode_length hop, by have := operandCount_le_two op; simp only [instrLength]; omega⟩

theorem EncodeLength.sed : EncodeLength.Statement .sed := by
  intro h
  obtain ⟨op, hop, hn⟩ := TableRow.sed h
  exact ⟨encode_length hop, by have := operandCount_le_two op; simp only [instrLength]; omega⟩

theorem EncodeLength.clv : EncodeLength.Statement .clv := by
  intro h
  obtain ⟨op, hop, hn⟩ := TableRow.clv h
  exact ⟨encode_length hop, by have := operandCount_le_two op; simp only [instrLength]; omega⟩

theorem EncodeLength.nop : EncodeLength.Statement .nop := by
  intro h
  obtain ⟨op, hop, hn⟩ := TableRow.nop h
  exact ⟨encode_length hop, by have := operandCount_le_two op; simp only [instrLength]; omega⟩

theorem EncodeLength.nopImp (op : Byte) : EncodeLength.Statement (.nopImp op) := by
  intro h
  obtain ⟨op, hop, hn⟩ := TableRow.nopImp op h
  exact ⟨encode_length hop, by have := operandCount_le_two op; simp only [instrLength]; omega⟩

theorem EncodeLength.nopImm (op v : Byte) : EncodeLength.Statement (.nopImm op v) := by
  intro h
  obtain ⟨op, hop, hn⟩ := TableRow.nopImm op v h
  exact ⟨encode_length hop, by have := operandCount_le_two op; simp only [instrLength]; omega⟩

theorem EncodeLength.nopZp (op z : Byte) : EncodeLength.Statement (.nopZp op z) := by
  intro h
  obtain ⟨op, hop, hn⟩ := TableRow.nopZp op z h
  exact ⟨encode_length hop, by have := operandCount_le_two op; simp only [instrLength]; omega⟩

theorem EncodeLength.nopZpX (op z : Byte) : EncodeLength.Statement (.nopZpX op z) := by
  intro h
  obtain ⟨op, hop, hn⟩ := TableRow.nopZpX op z h
  exact ⟨encode_length hop, by have := operandCount_le_two op; simp only [instrLength]; omega⟩

theorem EncodeLength.nopAbs (w : Addr) : EncodeLength.Statement (.nopAbs w) := by
  intro h
  obtain ⟨op, hop, hn⟩ := TableRow.nopAbs w h
  exact ⟨encode_length hop, by have := operandCount_le_two op; simp only [instrLength]; omega⟩

theorem EncodeLength.nopAbsX (op : Byte) (w : Addr) : EncodeLength.Statement (.nopAbsX op w) := by
  intro h
  obtain ⟨op, hop, hn⟩ := TableRow.nopAbsX op w h
  exact ⟨encode_length hop, by have := operandCount_le_two op; simp only [instrLength]; omega⟩

theorem EncodeLength.illegal (op : Byte) : EncodeLength.Statement (.illegal op) := by
  intro h
  obtain ⟨op, hop, hn⟩ := TableRow.illegal op h
  exact ⟨encode_length hop, by have := operandCount_le_two op; simp only [instrLength]; omega⟩

end Sys2Proof.Laws
end

