-- ==== Sys2Proof/Tests/Slice0.lean ====
section
/-! SUPPORT. The model's own tests: ill-formed terms refused, words written out from the spec's encodings, one step per
instruction with the end state spec/95_test_vectors.md gives (the vector is named), and a witness for the hypotheses of
every obligation that has any. -/

namespace Sys2Proof.Tests

open Sys2Proof Sys2Proof.Machine Sys2Proof.Claims

/-! ### WellFormed refuses -/

theorem test_illformed_acc_form : (Instr.lda (.mem (.zpY 0x10))).wellFormed = false := by decide
theorem test_illformed_ldx_form : (Instr.ldx (.mem (.zpX 0x10))).wellFormed = false := by decide
theorem test_illformed_ldy_form : (Instr.ldy (.mem (.absY 0x1000))).wellFormed = false := by decide
theorem test_illformed_cp_form : (Instr.cpx (.mem (.zpX 0x10))).wellFormed = false := by decide
theorem test_illformed_sta_form : (Instr.sta (.zpY 0x10)).wellFormed = false := by decide
theorem test_illformed_stx_form : (Instr.stx (.zpX 0x10)).wellFormed = false := by decide
theorem test_illformed_sty_form : (Instr.sty (.absX 0x1000)).wellFormed = false := by decide
theorem test_illformed_bit_form : (Instr.bit (.zpX 0x10)).wellFormed = false := by decide
theorem test_illformed_rmw_form : (Instr.inc (.absY 0x1000)).wellFormed = false := by decide
theorem test_illformed_shift_form : (Instr.asl (.mem (.indY 0x10))).wellFormed = false := by decide
theorem test_illformed_nopImp : (Instr.nopImp 0xEA).wellFormed = false := by decide
theorem test_illformed_nopImm : (Instr.nopImm 0xA9 0).wellFormed = false := by decide
theorem test_illformed_nopZp : (Instr.nopZp 0x24 0).wellFormed = false := by decide
theorem test_illformed_nopZpX : (Instr.nopZpX 0x94 0).wellFormed = false := by decide
theorem test_illformed_nopAbsX : (Instr.nopAbsX 0x9C 0).wellFormed = false := by decide
theorem test_illformed_illegal : (Instr.illegal 0x00).wellFormed = false := by decide

/-! ### Decoding -/

/-- Words of 41_load_store_transfer.md, written out bit by bit from its **Encoding** parts, operand bytes 0x34 and 0x12. -/
theorem test_decode_loads_stores_transfers :
    decodeTableWord 16 0b00110100_10000001 = some (.sta (.indX 0x34)) ∧
    decodeTableWord 16 0b00110100_10000101 = some (.sta (.zp 0x34)) ∧
    decodeTableWord 8 0b10001010 = some .txa ∧
    decodeTableWord 24 0b00010010_00110100_10001101 = some (.sta (.abs 0x1234)) ∧
    decodeTableWord 16 0b00110100_10010001 = some (.sta (.indY 0x34)) ∧
    decodeTableWord 16 0b00110100_10010100 = some (.sty (.zpX 0x34)) ∧
    decodeTableWord 16 0b00110100_10010101 = some (.sta (.zpX 0x34)) ∧
    decodeTableWord 16 0b00110100_10010110 = some (.stx (.zpY 0x34)) ∧
    decodeTableWord 8 0b10011000 = some .tya ∧
    decodeTableWord 24 0b00010010_00110100_10011001 = some (.sta (.absY 0x1234)) ∧
    decodeTableWord 8 0b10011010 = some .txs ∧
    decodeTableWord 24 0b00010010_00110100_10011101 = some (.sta (.absX 0x1234)) ∧
    decodeTableWord 16 0b00110100_10100000 = some (.ldy (.imm 0x34)) ∧
    decodeTableWord 16 0b00110100_10100001 = some (.lda (.mem (.indX 0x34))) ∧
    decodeTableWord 16 0b00110100_10100010 = some (.ldx (.imm 0x34)) ∧
    decodeTableWord 16 0b00110100_10100100 = some (.ldy (.mem (.zp 0x34))) ∧
    decodeTableWord 16 0b00110100_10100101 = some (.lda (.mem (.zp 0x34))) ∧
    decodeTableWord 16 0b00110100_10100110 = some (.ldx (.mem (.zp 0x34))) ∧
    decodeTableWord 8 0b10101000 = some .tay ∧
    decodeTableWord 16 0b00110100_10101001 = some (.lda (.imm 0x34)) ∧
    decodeTableWord 8 0b10101010 = some .tax ∧
    decodeTableWord 24 0b00010010_00110100_10101100 = some (.ldy (.mem (.abs 0x1234))) ∧
    decodeTableWord 24 0b00010010_00110100_10101101 = some (.lda (.mem (.abs 0x1234))) ∧
    decodeTableWord 24 0b00010010_00110100_10101110 = some (.ldx (.mem (.abs 0x1234))) ∧
    decodeTableWord 16 0b00110100_10110001 = some (.lda (.mem (.indY 0x34))) ∧
    decodeTableWord 16 0b00110100_10110100 = some (.ldy (.mem (.zpX 0x34))) ∧
    decodeTableWord 16 0b00110100_10110101 = some (.lda (.mem (.zpX 0x34))) ∧
    decodeTableWord 16 0b00110100_10110110 = some (.ldx (.mem (.zpY 0x34))) ∧
    decodeTableWord 24 0b00010010_00110100_10111001 = some (.lda (.mem (.absY 0x1234))) ∧
    decodeTableWord 8 0b10111010 = some .tsx ∧
    decodeTableWord 24 0b00010010_00110100_10111100 = some (.ldy (.mem (.absX 0x1234))) ∧
    decodeTableWord 24 0b00010010_00110100_10111101 = some (.lda (.mem (.absX 0x1234))) ∧
    decodeTableWord 24 0b00010010_00110100_10111110 = some (.ldx (.mem (.absY 0x1234))) := by
  decide

/-- Words of 42_stack.md, written out bit by bit from its **Encoding** parts, operand bytes 0x34 and 0x12. -/
theorem test_decode_stack :
    decodeTableWord 8 0b00001000 = some .php ∧
    decodeTableWord 8 0b00101000 = some .plp ∧
    decodeTableWord 8 0b01001000 = some .pha ∧
    decodeTableWord 8 0b01101000 = some .pla := by
  decide

/-- Words of 43_arith_logic.md, written out bit by bit from its **Encoding** parts, operand bytes 0x34 and 0x12. -/
theorem test_decode_arith_logic :
    decodeTableWord 24 0b00010010_00110100_00011001 = some (.ora (.mem (.absY 0x1234))) ∧
    decodeTableWord 24 0b00010010_00110100_00101100 = some (.bit (.abs 0x1234)) ∧
    decodeTableWord 24 0b00010010_00110100_00111101 = some (.and (.mem (.absX 0x1234))) ∧
    decodeTableWord 16 0b00110100_01010101 = some (.eor (.mem (.zpX 0x34))) ∧
    decodeTableWord 16 0b00110100_01100001 = some (.adc (.mem (.indX 0x34))) ∧
    decodeTableWord 8 0b10001000 = some .dey ∧
    decodeTableWord 16 0b00110100_11000100 = some (.cpy (.mem (.zp 0x34))) ∧
    decodeTableWord 8 0b11001000 = some .iny ∧
    decodeTableWord 8 0b11001010 = some .dex ∧
    decodeTableWord 24 0b00010010_00110100_11001101 = some (.cmp (.mem (.abs 0x1234))) ∧
    decodeTableWord 16 0b00110100_11010110 = some (.dec (.zpX 0x34)) ∧
    decodeTableWord 16 0b00110100_11100000 = some (.cpx (.imm 0x34)) ∧
    decodeTableWord 8 0b11101000 = some .inx ∧
    decodeTableWord 16 0b00110100_11110001 = some (.sbc (.mem (.indY 0x34))) ∧
    decodeTableWord 24 0b00010010_00110100_11111110 = some (.inc (.absX 0x1234)) := by
  decide

/-- Words of 44_shift_rotate.md, written out bit by bit from its **Encoding** parts, operand bytes 0x34 and 0x12. -/
theorem test_decode_shifts :
    decodeTableWord 16 0b00110100_00000110 = some (.asl (.mem (.zp 0x34))) ∧
    decodeTableWord 8 0b00001010 = some (.asl .acc) ∧
    decodeTableWord 24 0b00010010_00110100_00001110 = some (.asl (.mem (.abs 0x1234))) ∧
    decodeTableWord 16 0b00110100_00010110 = some (.asl (.mem (.zpX 0x34))) ∧
    decodeTableWord 24 0b00010010_00110100_00011110 = some (.asl (.mem (.absX 0x1234))) ∧
    decodeTableWord 24 0b00010010_00110100_00111110 = some (.rol (.mem (.absX 0x1234))) ∧
    decodeTableWord 16 0b00110100_01000110 = some (.lsr (.mem (.zp 0x34))) ∧
    decodeTableWord 8 0b01101010 = some (.ror .acc) := by
  decide

/-- Words of 45_control.md, written out bit by bit from its **Encoding** parts, operand bytes 0x34 and 0x12. -/
theorem test_decode_control :
    decodeTableWord 8 0b00000000 = some .brk ∧
    decodeTableWord 16 0b00110100_00010000 = some (.bpl 0x34) ∧
    decodeTableWord 24 0b00010010_00110100_00100000 = some (.jsr 0x1234) ∧
    decodeTableWord 16 0b00110100_00110000 = some (.bmi 0x34) ∧
    decodeTableWord 8 0b01000000 = some .rti ∧
    decodeTableWord 24 0b00010010_00110100_01001100 = some (.jmp (.abs 0x1234)) ∧
    decodeTableWord 16 0b00110100_01010000 = some (.bvc 0x34) ∧
    decodeTableWord 8 0b01100000 = some .rts ∧
    decodeTableWord 24 0b00010010_00110100_01101100 = some (.jmp (.ind 0x1234)) ∧
    decodeTableWord 16 0b00110100_01110000 = some (.bvs 0x34) ∧
    decodeTableWord 16 0b00110100_10010000 = some (.bcc 0x34) ∧
    decodeTableWord 16 0b00110100_10110000 = some (.bcs 0x34) ∧
    decodeTableWord 16 0b00110100_11010000 = some (.bne 0x34) ∧
    decodeTableWord 16 0b00110100_11110000 = some (.beq 0x34) := by
  decide

/-- Words of 46_flag_nop.md, written out bit by bit from its **Encoding** parts, operand bytes 0x34 and 0x12. -/
theorem test_decode_flags_nops :
    decodeTableWord 16 0b00110100_00000100 = some (.nopZp 0x04 0x34) ∧
    decodeTableWord 24 0b00010010_00110100_00001100 = some (.nopAbs 0x1234) ∧
    decodeTableWord 16 0b00110100_00010100 = some (.nopZpX 0x14 0x34) ∧
    decodeTableWord 8 0b00011000 = some .clc ∧
    decodeTableWord 8 0b00011010 = some (.nopImp 0x1A) ∧
    decodeTableWord 24 0b00010010_00110100_00011100 = some (.nopAbsX 0x1C 0x1234) ∧
    decodeTableWord 8 0b00111000 = some .sec ∧
    decodeTableWord 8 0b01011000 = some .cli ∧
    decodeTableWord 8 0b01111000 = some .sei ∧
    decodeTableWord 16 0b00110100_10000000 = some (.nopImm 0x80 0x34) ∧
    decodeTableWord 8 0b10111000 = some .clv ∧
    decodeTableWord 8 0b11011000 = some .cld ∧
    decodeTableWord 8 0b11101010 = some .nop ∧
    decodeTableWord 8 0b11111000 = some .sed := by
  decide

/-- Words of 60_exceptions.md, written out bit by bit from its **Encoding** parts, operand bytes 0x34 and 0x12. -/
theorem test_decode_illegal :
    decodeTableWord 8 0b00000010 = some (.illegal 0x02) ∧
    decodeTableWord 8 0b10011100 = some (.illegal 0x9C) ∧
    decodeTableWord 8 0b11111111 = some (.illegal 0xFF) := by
  decide

/-- A cut-off instruction and an empty list are refused by name (30_encoding.md R100). -/
theorem test_decode_refuses :
    decode [] = .error .noOpcode ∧ decode [0xAD, 0x34] = .error (.truncated 0xAD) := by
  decide

/-! ### One step per instruction -/

/-- The start state S0 of spec/95_test_vectors.md with an instruction's bytes at `pc` in program storage and some RAM. -/
def start (pc : Addr) (code : List Byte) (ram : Memory) : State :=
  { State.reset with
    pc := pc, ram := ram, cart := { Cartridge.blank with prg := Memory.ofBytes (pc.toNat % 0x4000) code } }

/-- The same with a BRK vector. -/
def startBrk (vector pc : Addr) (code : List Byte) (ram : Memory) : State :=
  { State.reset with
    pc := pc, ram := ram
    cart := { Cartridge.blank with
      prg := Memory.ofBytes (pc.toNat % 0x4000) code ++ Memory.ofBytes 0x3FFE [lo8 vector, hi8 vector] } }

/-- A, X, Y, SP, the status byte and PC after one step. -/
def after (s : State) : Option (List Byte × Addr) :=
  match step s with
  | .next t => some ([t.a, t.x, t.y, t.sp, t.statusByte], t.pc)
  | .fault _ => none
  | .refused _ => none

/-- A byte of memory after one step. -/
def readAfter (s : State) (w : Addr) : Option Byte :=
  match step s with
  | .next t => some (t.read w)
  | .fault _ => none
  | .refused _ => none

/-- The fault record after one step. -/
def faultAfter (s : State) : Option FaultRecord :=
  match step s with
  | .next t => t.fault
  | .fault _ => none
  | .refused _ => none

/-- V41.3 (R160). -/
theorem test_lda :
    let s := start 0x8000 [0xA9, 0xFF] []
    after s = some ([0xFF, 0x00, 0x00, 0xFD, 0xA4], 0x8002) ∧
    stepResult s = some (.ok 2) := by
  decide

/-- V40.3 (R140, R161). -/
theorem test_ldx :
    let s := { start 0x8000 [0xB6, 0xFF] [(0x0001, 0x77), (0x0101, 0x88)] with y := 0x02 }
    after s = some ([0x00, 0x77, 0x02, 0xFD, 0x24], 0x8002) ∧
    stepResult s = some (.ok 4) := by
  decide

/-- V41.6 (R162). -/
theorem test_ldy :
    let s := { start 0x8000 [0xBC, 0xFE, 0x00] [(0x0101, 0x01)] with x := 0x03 }
    after s = some ([0x00, 0x03, 0x01, 0xFD, 0x24], 0x8003) ∧
    stepResult s = some (.ok 5) := by
  decide

/-- V41.12 (R163). -/
theorem test_sta :
    let s := { start 0x8000 [0x91, 0x40] [(0x0040, 0xF0), (0x0041, 0x03)] with a := 0x5E, y := 0x20 }
    after s = some ([0x5E, 0x00, 0x20, 0xFD, 0x24], 0x8002) ∧
    readAfter s 0x0410 = some 0x5E ∧
    stepResult s = some (.ok 6) := by
  decide

/-- V41.14 (R164). -/
theorem test_stx :
    let s := { start 0x8000 [0x96, 0xFF] [] with x := 0xAA, y := 0x02 }
    after s = some ([0x00, 0xAA, 0x02, 0xFD, 0x24], 0x8002) ∧
    readAfter s 0x0001 = some 0xAA ∧
    stepResult s = some (.ok 4) := by
  decide

/-- V41.15 (R165). -/
theorem test_sty :
    let s := { start 0x8000 [0x94, 0x80] [] with x := 0x90, y := 0x0B }
    after s = some ([0x00, 0x90, 0x0B, 0xFD, 0x24], 0x8002) ∧
    readAfter s 0x0010 = some 0x0B ∧
    stepResult s = some (.ok 4) := by
  decide

/-- V41.16 (R166). -/
theorem test_tax :
    let s := { start 0x8000 [0xAA] [] with x := 0x55 }
    after s = some ([0x00, 0x00, 0x00, 0xFD, 0x26], 0x8001) ∧
    stepResult s = some (.ok 2) := by
  decide

/-- V41.17 (R167). -/
theorem test_tay :
    let s := { start 0x8000 [0xA8] [] with a := 0x90 }
    after s = some ([0x90, 0x00, 0x90, 0xFD, 0xA4], 0x8001) ∧
    stepResult s = some (.ok 2) := by
  decide

/-- V41.18 (R168). -/
theorem test_txa :
    let s := { start 0x8000 [0x8A] [] with x := 0x7F }
    after s = some ([0x7F, 0x7F, 0x00, 0xFD, 0x24], 0x8001) ∧
    stepResult s = some (.ok 2) := by
  decide

/-- V41.19 (R169). -/
theorem test_tya :
    let s := { start 0x8000 [0x98] [] with a := 0x01 }
    after s = some ([0x00, 0x00, 0x00, 0xFD, 0x26], 0x8001) ∧
    stepResult s = some (.ok 2) := by
  decide

/-- V41.20 (R170). -/
theorem test_tsx :
    let s := start 0x8000 [0xBA] []
    after s = some ([0x00, 0xFD, 0x00, 0xFD, 0xA4], 0x8001) ∧
    stepResult s = some (.ok 2) := by
  decide

/-- V41.21 (R171). -/
theorem test_txs :
    let s := { start 0x8000 [0x9A] [] with p := Status.ofPulled 0xA4 }
    after s = some ([0x00, 0x00, 0x00, 0x00, 0xA4], 0x8001) ∧
    stepResult s = some (.ok 2) := by
  decide

/-- V42.2 (R190, R73). -/
theorem test_pha :
    let s := { start 0x8000 [0x48] [] with a := 0x44, sp := 0x00 }
    after s = some ([0x44, 0x00, 0x00, 0xFF, 0x24], 0x8001) ∧
    readAfter s 0x0100 = some 0x44 ∧
    stepResult s = some (.ok 3) := by
  decide

/-- V42.3 (R191). -/
theorem test_php :
    let s := start 0x8000 [0x08] []
    after s = some ([0x00, 0x00, 0x00, 0xFC, 0x24], 0x8001) ∧
    readAfter s 0x01FD = some 0x34 ∧
    stepResult s = some (.ok 3) := by
  decide

/-- V42.6 (R192, R74). -/
theorem test_pla :
    let s := { start 0x8000 [0x68] [] with a := 0x01, sp := 0xFF }
    after s = some ([0x00, 0x00, 0x00, 0x00, 0x26], 0x8001) ∧
    stepResult s = some (.ok 4) := by
  decide

/-- V42.7 (R193). -/
theorem test_plp :
    let s := { start 0x8000 [0x28] [(0x01FD, 0xFF)] with sp := 0xFC }
    after s = some ([0x00, 0x00, 0x00, 0xFD, 0xEF], 0x8001) ∧
    stepResult s = some (.ok 4) := by
  decide

/-- V43.3 (R205). -/
theorem test_adc :
    let s := { start 0x8000 [0x69, 0x50] [] with a := 0x50 }
    after s = some ([0xA0, 0x00, 0x00, 0xFD, 0xE4], 0x8002) ∧
    stepResult s = some (.ok 2) := by
  decide

/-- V43.7 (R201, R205). -/
theorem test_adc_decimal :
    let s := { start 0x8000 [0x69, 0x46] [] with a := 0x58, p := Status.ofPulled 0x2D, cfg := ⟨true, true⟩ }
    after s = some ([0x05, 0x00, 0x00, 0xFD, 0xED], 0x8002) ∧
    stepResult s = some (.ok 2) := by
  decide

/-- V43.11 (R206). -/
theorem test_sbc :
    let s := { start 0x8000 [0xE9, 0x01] [] with a := 0x80, p := Status.ofPulled 0x25 }
    after s = some ([0x7F, 0x00, 0x00, 0xFD, 0x65], 0x8002) ∧
    stepResult s = some (.ok 2) := by
  decide

/-- V43.15 (R202). -/
theorem test_sbc_decimal :
    let s := { start 0x8000 [0xE9, 0x13] [] with a := 0x40, p := Status.ofPulled 0x2D, cfg := ⟨true, true⟩ }
    after s = some ([0x27, 0x00, 0x00, 0xFD, 0x2D], 0x8002) ∧
    stepResult s = some (.ok 2) := by
  decide

/-- V43.17 (R207). -/
theorem test_and :
    let s := { start 0x8000 [0x29, 0x0F] [] with a := 0xF0 }
    after s = some ([0x00, 0x00, 0x00, 0xFD, 0x26], 0x8002) ∧
    stepResult s = some (.ok 2) := by
  decide

/-- V43.18 (R208). -/
theorem test_ora :
    let s := { start 0x8000 [0x09, 0x80] [] with a := 0x01 }
    after s = some ([0x81, 0x00, 0x00, 0xFD, 0xA4], 0x8002) ∧
    stepResult s = some (.ok 2) := by
  decide

/-- V43.19 (R209). -/
theorem test_eor :
    let s := { start 0x8000 [0x49, 0xFF] [] with a := 0xFF }
    after s = some ([0x00, 0x00, 0x00, 0xFD, 0x26], 0x8002) ∧
    stepResult s = some (.ok 2) := by
  decide

/-- V43.20 (R210). -/
theorem test_bit :
    let s := { start 0x8000 [0x24, 0x10] [(0x0010, 0xC0)] with a := 0x01 }
    after s = some ([0x01, 0x00, 0x00, 0xFD, 0xE6], 0x8002) ∧
    stepResult s = some (.ok 3) := by
  decide

/-- V43.24 (R211). -/
theorem test_cmp :
    let s := { start 0x8000 [0xC9, 0x01] [] with a := 0x80, p := Status.ofPulled 0x64 }
    after s = some ([0x80, 0x00, 0x00, 0xFD, 0x65], 0x8002) ∧
    stepResult s = some (.ok 2) := by
  decide

/-- V43.25 (R212). -/
theorem test_cpx :
    let s := { start 0x8000 [0xE0, 0x10] [] with x := 0x20 }
    after s = some ([0x00, 0x20, 0x00, 0xFD, 0x25], 0x8002) ∧
    stepResult s = some (.ok 2) := by
  decide

/-- V43.26 (R213). -/
theorem test_cpy :
    let s := start 0x8000 [0xC0, 0xFF] []
    after s = some ([0x00, 0x00, 0x00, 0xFD, 0x24], 0x8002) ∧
    stepResult s = some (.ok 2) := by
  decide

/-- V43.27 (R214). -/
theorem test_inc :
    let s := { start 0x8000 [0xE6, 0x10] [(0x0010, 0xFF)] with p := Status.ofPulled 0x25 }
    after s = some ([0x00, 0x00, 0x00, 0xFD, 0x27], 0x8002) ∧
    readAfter s 0x0010 = some 0x00 ∧
    stepResult s = some (.ok 5) := by
  decide

/-- V43.28 (R214, R68). -/
theorem test_inc_rom :
    let s := start 0x8000 [0xEE, 0x00, 0x80] []
    after s = some ([0x00, 0x00, 0x00, 0xFD, 0xA4], 0x8003) ∧
    stepResult s = some (.ok 6) := by
  decide

/-- V43.30 (R215). -/
theorem test_dec :
    let s := { start 0x8000 [0xDE, 0xFF, 0x02] [(0x0300, 0x01)] with x := 0x01 }
    after s = some ([0x00, 0x01, 0x00, 0xFD, 0x26], 0x8003) ∧
    readAfter s 0x0300 = some 0x00 ∧
    stepResult s = some (.ok 7) := by
  decide

/-- V43.31 (R216). -/
theorem test_inx :
    let s := { start 0x8000 [0xE8] [] with x := 0xFF }
    after s = some ([0x00, 0x00, 0x00, 0xFD, 0x26], 0x8001) ∧
    stepResult s = some (.ok 2) := by
  decide

/-- V43.32 (R217). -/
theorem test_iny :
    let s := { start 0x8000 [0xC8] [] with y := 0x7F }
    after s = some ([0x00, 0x00, 0x80, 0xFD, 0xA4], 0x8001) ∧
    stepResult s = some (.ok 2) := by
  decide

/-- V43.33 (R218). -/
theorem test_dex :
    let s := start 0x8000 [0xCA] []
    after s = some ([0x00, 0xFF, 0x00, 0xFD, 0xA4], 0x8001) ∧
    stepResult s = some (.ok 2) := by
  decide

/-- V43.34 (R219). -/
theorem test_dey :
    let s := { start 0x8000 [0x88] [] with y := 0x01 }
    after s = some ([0x00, 0x00, 0x00, 0xFD, 0x26], 0x8001) ∧
    stepResult s = some (.ok 2) := by
  decide

/-- V44.1 (R241). -/
theorem test_asl :
    let s := { start 0x8000 [0x0A] [] with a := 0x81 }
    after s = some ([0x02, 0x00, 0x00, 0xFD, 0x25], 0x8001) ∧
    stepResult s = some (.ok 2) := by
  decide

/-- V44.5 (R242). -/
theorem test_lsr :
    let s := { start 0x8000 [0x4A] [] with a := 0x01, p := Status.ofPulled 0xA4 }
    after s = some ([0x00, 0x00, 0x00, 0xFD, 0x27], 0x8001) ∧
    stepResult s = some (.ok 2) := by
  decide

/-- V44.7 (R243 memory). -/
theorem test_rol :
    let s := start 0x8000 [0x2E, 0x00, 0x02] [(0x0200, 0x55)]
    after s = some ([0x00, 0x00, 0x00, 0xFD, 0xA4], 0x8003) ∧
    readAfter s 0x0200 = some 0xAA ∧
    stepResult s = some (.ok 6) := by
  decide

/-- V44.10 (R244 AbsoluteX: 7 cycles). -/
theorem test_ror :
    let s := { start 0x8000 [0x7E, 0xFF, 0x02] [(0x0300, 0x02)] with x := 0x01, p := Status.ofPulled 0x25 }
    after s = some ([0x00, 0x01, 0x00, 0xFD, 0xA4], 0x8003) ∧
    readAfter s 0x0300 = some 0x81 ∧
    stepResult s = some (.ok 7) := by
  decide

/-- V45.6 (R251). -/
theorem test_bpl :
    let s := { start 0x8000 [0x10, 0x02] [] with p := Status.ofPulled 0xA4 }
    after s = some ([0x00, 0x00, 0x00, 0xFD, 0xA4], 0x8002) ∧
    stepResult s = some (.ok 2) := by
  decide

/-- V45.7 (R252). -/
theorem test_bmi :
    let s := { start 0x8000 [0x30, 0x02] [] with p := Status.ofPulled 0xA4 }
    after s = some ([0x00, 0x00, 0x00, 0xFD, 0xA4], 0x8004) ∧
    stepResult s = some (.ok 3) := by
  decide

/-- V45.8 (R253). -/
theorem test_bvc :
    let s := start 0x8000 [0x50, 0x02] []
    after s = some ([0x00, 0x00, 0x00, 0xFD, 0x24], 0x8004) ∧
    stepResult s = some (.ok 3) := by
  decide

/-- V45.9 (R254). -/
theorem test_bvs :
    let s := start 0x8000 [0x70, 0x02] []
    after s = some ([0x00, 0x00, 0x00, 0xFD, 0x24], 0x8002) ∧
    stepResult s = some (.ok 2) := by
  decide

/-- V45.10 (R255). -/
theorem test_bcc :
    let s := start 0x8000 [0x90, 0x02] []
    after s = some ([0x00, 0x00, 0x00, 0xFD, 0x24], 0x8004) ∧
    stepResult s = some (.ok 3) := by
  decide

/-- V45.11 (R256). -/
theorem test_bcs :
    let s := { start 0x8000 [0xB0, 0x02] [] with p := Status.ofPulled 0x25 }
    after s = some ([0x00, 0x00, 0x00, 0xFD, 0x25], 0x8004) ∧
    stepResult s = some (.ok 3) := by
  decide

/-- V45.3 (R250). -/
theorem test_bne_back :
    let s := start 0x8000 [0xD0, 0xFC] []
    after s = some ([0x00, 0x00, 0x00, 0xFD, 0x24], 0x7FFE) ∧
    stepResult s = some (.ok 4) := by
  decide

/-- V45.14 (R250). -/
theorem test_bne_cross :
    let s := start 0x80FD [0xD0, 0x7D] []
    after s = some ([0x00, 0x00, 0x00, 0xFD, 0x24], 0x817C) ∧
    stepResult s = some (.ok 4) := by
  decide

/-- V45.4 (R258). -/
theorem test_beq :
    let s := { start 0x8000 [0xF0, 0x7F] [] with p := Status.ofPulled 0x26 }
    after s = some ([0x00, 0x00, 0x00, 0xFD, 0x26], 0x8081) ∧
    stepResult s = some (.ok 3) := by
  decide

/-- V45.16 (R260). -/
theorem test_jmp :
    let s := start 0x8000 [0x4C, 0x34, 0x92] []
    after s = some ([0x00, 0x00, 0x00, 0xFD, 0x24], 0x9234) ∧
    stepResult s = some (.ok 3) := by
  decide

/-- V40.14 (R146). -/
theorem test_jmp_page_wrap :
    let s := start 0x8000 [0x6C, 0xFF, 0x02] [(0x0200, 0x90), (0x0300, 0x12)]
    after s = some ([0x00, 0x00, 0x00, 0xFD, 0x24], 0x9000) ∧
    stepResult s = some (.ok 5) := by
  decide

/-- V45.17 (R261). -/
theorem test_jsr :
    let s := start 0x8000 [0x20, 0x00, 0x90] []
    after s = some ([0x00, 0x00, 0x00, 0xFB, 0x24], 0x9000) ∧
    readAfter s 0x01FC = some 0x02 ∧
    readAfter s 0x01FD = some 0x80 ∧
    stepResult s = some (.ok 6) := by
  decide

/-- V45.19 (R262). -/
theorem test_rts :
    let s := { start 0x8000 [0x60] [(0x01FC, 0xFF), (0x01FD, 0xFF)] with sp := 0xFB }
    after s = some ([0x00, 0x00, 0x00, 0xFD, 0x24], 0x0000) ∧
    stepResult s = some (.ok 6) := by
  decide

/-- V45.21 (R263). -/
theorem test_brk :
    let s := { startBrk 0xA000 0x8000 [0x00] [] with p := Status.ofPulled 0x2C }
    after s = some ([0x00, 0x00, 0x00, 0xFA, 0x2C], 0xA000) ∧
    readAfter s 0x01FB = some 0x3C ∧
    readAfter s 0x01FC = some 0x02 ∧
    readAfter s 0x01FD = some 0x80 ∧
    stepResult s = some (.ok 7) := by
  decide

/-- V45.22 (R264). -/
theorem test_rti :
    let s := { start 0x8000 [0x40] [(0x01FB, 0x33), (0x01FC, 0x02), (0x01FD, 0x80)] with sp := 0xFA }
    after s = some ([0x00, 0x00, 0x00, 0xFD, 0x23], 0x8002) ∧
    stepResult s = some (.ok 6) := by
  decide

/-- V46.1 (R280). -/
theorem test_clc :
    let s := { start 0x8000 [0x18] [] with p := Status.ofPulled 0x25 }
    after s = some ([0x00, 0x00, 0x00, 0xFD, 0x24], 0x8001) ∧
    stepResult s = some (.ok 2) := by
  decide

/-- V46.2 (R281). -/
theorem test_sec :
    let s := start 0x8000 [0x38] []
    after s = some ([0x00, 0x00, 0x00, 0xFD, 0x25], 0x8001) ∧
    stepResult s = some (.ok 2) := by
  decide

/-- V46.3 (R282). -/
theorem test_cli :
    let s := start 0x8000 [0x58] []
    after s = some ([0x00, 0x00, 0x00, 0xFD, 0x20], 0x8001) ∧
    stepResult s = some (.ok 2) := by
  decide

/-- V46.4 (R283). -/
theorem test_sei :
    let s := start 0x8000 [0x78] []
    after s = some ([0x00, 0x00, 0x00, 0xFD, 0x24], 0x8001) ∧
    stepResult s = some (.ok 2) := by
  decide

/-- V46.5 (R284). -/
theorem test_cld :
    let s := { start 0x8000 [0xD8] [] with p := Status.ofPulled 0x2C }
    after s = some ([0x00, 0x00, 0x00, 0xFD, 0x24], 0x8001) ∧
    stepResult s = some (.ok 2) := by
  decide

/-- V46.6 (R285). -/
theorem test_sed :
    let s := start 0x8000 [0xF8] []
    after s = some ([0x00, 0x00, 0x00, 0xFD, 0x2C], 0x8001) ∧
    stepResult s = some (.ok 2) := by
  decide

/-- V46.7 (R286). -/
theorem test_clv :
    let s := { start 0x8000 [0xB8] [] with p := Status.ofPulled 0x64 }
    after s = some ([0x00, 0x00, 0x00, 0xFD, 0x24], 0x8001) ∧
    stepResult s = some (.ok 2) := by
  decide

/-- V46.8 (R287). -/
theorem test_nop :
    let s := start 0x8000 [0xEA] []
    after s = some ([0x00, 0x00, 0x00, 0xFD, 0x24], 0x8001) ∧
    stepResult s = some (.ok 2) := by
  decide

/-- V46.9 (R288). -/
theorem test_nopImp :
    let s := start 0x8000 [0x1A] []
    after s = some ([0x00, 0x00, 0x00, 0xFD, 0x24], 0x8001) ∧
    stepResult s = some (.ok 2) := by
  decide

/-- V46.16 (R107, R108, R300). -/
theorem test_nopImp_policy :
    let s := { start 0x8000 [0x1A] [] with cfg := ⟨false, false⟩ }
    after s = some ([0x00, 0x00, 0x00, 0xFD, 0x24], 0x8001) ∧
    faultAfter s = some ⟨0x1A, 0x8000⟩ ∧
    stepResult s = some (.illegalOpcode 0x1A 0x8000) := by
  decide

/-- V46.10 (R289). -/
theorem test_nopImm :
    let s := start 0x8000 [0x80, 0xFF] []
    after s = some ([0x00, 0x00, 0x00, 0xFD, 0x24], 0x8002) ∧
    stepResult s = some (.ok 2) := by
  decide

/-- V46.11 (R290). -/
theorem test_nopZp :
    let s := start 0x8000 [0x04, 0x10] []
    after s = some ([0x00, 0x00, 0x00, 0xFD, 0x24], 0x8002) ∧
    stepResult s = some (.ok 3) := by
  decide

/-- V46.12 (R291). -/
theorem test_nopZpX :
    let s := { start 0x8000 [0x14, 0x10] [] with x := 0x05 }
    after s = some ([0x00, 0x05, 0x00, 0xFD, 0x24], 0x8002) ∧
    stepResult s = some (.ok 4) := by
  decide

/-- V46.13 (R292). -/
theorem test_nopAbs :
    let s := start 0x8000 [0x0C, 0x00, 0x02] []
    after s = some ([0x00, 0x00, 0x00, 0xFD, 0x24], 0x8003) ∧
    stepResult s = some (.ok 4) := by
  decide

/-- V46.14 (R293). -/
theorem test_nopAbsX :
    let s := { start 0x8000 [0x1C, 0xFF, 0x20] [] with x := 0x01 }
    after s = some ([0x00, 0x01, 0x00, 0xFD, 0x24], 0x8003) ∧
    stepResult s = some (.ok 5) := by
  decide

/-- V60.4 (R109, R300). -/
theorem test_illegal :
    let s := start 0x8000 [0x9C, 0x00, 0x02] []
    after s = some ([0x00, 0x00, 0x00, 0xFD, 0x24], 0x8001) ∧
    faultAfter s = some ⟨0x9C, 0x8000⟩ ∧
    stepResult s = some (.illegalOpcode 0x9C 0x8000) := by
  decide

/-- V60.2 (R300, R301). -/
theorem test_illegal_top :
    let s := start 0xFFFF [0xFF] []
    after s = some ([0x00, 0x00, 0x00, 0xFD, 0x24], 0x0000) ∧
    faultAfter s = some ⟨0xFF, 0xFFFF⟩ ∧
    stepResult s = some (.illegalOpcode 0xFF 0xFFFF) := by
  decide

/-- V20.1 (R65, C1). -/
theorem test_mirror :
    let s := { start 0x8000 [0x8D, 0xFF, 0x1F] [] with a := 0xA5 }
    after s = some ([0xA5, 0x00, 0x00, 0xFD, 0x24], 0x8003) ∧
    readAfter s 0x07FF = some 0xA5 ∧
    readAfter s 0x17FF = some 0xA5 ∧
    readAfter s 0x07FF = some 0xA5 ∧
    readAfter s 0x0FFF = some 0xA5 ∧
    stepResult s = some (.ok 4) := by
  decide

/-- V41.9 (R163, R68). -/
theorem test_rom_write :
    let s := { start 0x8000 [0x8D, 0x00, 0x80] [] with a := 0x3C }
    after s = some ([0x3C, 0x00, 0x00, 0xFD, 0x24], 0x8003) ∧
    readAfter s 0x8000 = some 0x8D ∧
    stepResult s = some (.ok 4) := by
  decide

/-- V40.10 (R144). -/
theorem test_indX_wrap :
    let s := { start 0x8000 [0xA1, 0xFE] [(0x0000, 0x02), (0x00FF, 0x10), (0x0100, 0x07), (0x0210, 0x6B), (0x0710, 0x70)] with x := 0x01 }
    after s = some ([0x6B, 0x01, 0x00, 0xFD, 0x24], 0x8002) ∧
    stepResult s = some (.ok 6) := by
  decide

/-- V40.13 (R145). -/
theorem test_indY_wrap :
    let s := start 0x8000 [0xB1, 0xFF] [(0x0000, 0x04), (0x00FF, 0x20), (0x0100, 0x05), (0x0420, 0x9E)]
    after s = some ([0x9E, 0x00, 0x00, 0xFD, 0xA4], 0x8002) ∧
    stepResult s = some (.ok 5) := by
  decide

/-! ### Witnesses: the hypotheses of the obligations can be met -/

/-- A container image of one program bank of NOPs, no trainer, no character storage (70_reset_and_hazards.md R350). -/
def image : List Byte := [0x4E, 0x45, 0x53, 0x1A, 0x01, 0x00, 0x00, 0x00] ++ (List.replicate 8 0x00 ++ List.replicate 16384 0xEA)

theorem image_length : image.length = 16400 := by
  rw [image, List.length_append, List.length_append, List.length_replicate, List.length_replicate]
  rfl

theorem image_loads : ∃ c, Cartridge.load image = .ok c := by
  have hlen : image.length = 16400 := image_length
  have h4 : image.getD 4 0 = 1 := rfl
  have h5 : image.getD 5 0 = 0 := rfl
  have h6 : image.getD 6 0 = 0 := rfl
  have hs : slice image 0 4 = magicBytes := rfl
  cases h : Cartridge.load image with
  | ok c => exact ⟨c, rfl⟩
  | error e =>
    unfold Cartridge.load at h
    simp only [hlen, h4, h5, h6, hs] at h
    rw [if_neg (by decide), if_neg (fun hne => hne rfl), if_neg (by decide), if_neg (by decide)] at h
    cases h

theorem witness_DecodeOfEncodeIsTheInstruction :
    (Instr.lda (.mem (.absX 0x1234))).wellFormed = true ∧ (Instr.nopAbsX 0xFC 0x1234).wellFormed = true ∧
    (Instr.illegal 0xFF).wellFormed = true := by decide

theorem witness_EncodeOfDecodeIsTheBytes :
    decode [0xBD, 0x34, 0x12, 0xEA] = .ok (.lda (.mem (.absX 0x1234)), [0xEA]) := by decide

theorem witness_StepRunsTheDecodedInstruction :
    let s := start 0x8000 [0xA9, 0x05, 0xEA] []
    s.fault = none ∧ decode [s.read s.pc, s.read (s.pc + 1), s.read (s.pc + 2)] = .ok (.lda (.imm 0x05), [0xEA]) := by
  intro s
  have h : [s.read s.pc, s.read (s.pc + 1), s.read (s.pc + 2)] = [0xA9, 0x05, 0xEA] := by decide
  rw [h]
  exact ⟨rfl, by decide⟩

/-- PC = 0xFFFF: the operand bytes are fetched from 0x0000 on. -/
theorem witness_EveryRunningStepCompletes :
    let s := start 0xFFFF [0xAD] [(0x0000, 0x34), (0x0001, 0x12)]
    s.fault = none ∧
    decode [s.read s.pc, s.read (s.pc + 1), s.read (s.pc + 2)] = .ok (.lda (.mem (.abs 0x1234)), []) := by
  intro s
  have h : [s.read s.pc, s.read (s.pc + 1), s.read (s.pc + 2)] = [0xAD, 0x34, 0x12] := by decide
  rw [h]
  exact ⟨rfl, by decide⟩

theorem witness_FaultedStateHasNoStep :
    ({ State.reset with fault := some ⟨0x02, 0x8000⟩ } : State).fault = some ⟨0x02, 0x8000⟩ := by decide

theorem witness_IllegalByteStepOnlyRecordsTheFault :
    (let s := start 0xFFFF [0xFF] []
     s.fault = none ∧ raisesIllegal s.cfg (s.read s.pc) = true) ∧
    (let s := { start 0x8000 [0x1A] [] with cfg := ⟨false, false⟩ }
     s.fault = none ∧ raisesIllegal s.cfg (s.read s.pc) = true) := by
  decide

/-- The four boundaries of the address map (20_memory.md R61, V40.16, V40.17, V20.5). -/
theorem witness_BusReadDecodesTheAddress :
    let s := start 0x8000 [0xAD] [(0x07FF, 0xA5)]
    s.read 0x1FFF = 0xA5 ∧ s.read 0x2000 = 0x00 ∧ s.read 0x7FFF = 0x00 ∧ s.read 0x8000 = 0xAD := by
  decide

theorem witness_RamMirrorsNameOneByte : (0x07FF : Addr).toNat < 0x0800 := by decide

/-- Each clause of WriteReachesItsRamByteAlone at a boundary. -/
theorem witness_WriteReachesItsRamByteAlone :
    (0x1FFF : Addr).toNat ≤ 0x1FFF ∧
    ((0x07FF : Addr).toNat ≤ 0x1FFF ∧ (0x07FF : Addr).toNat % 2048 = (0x1FFF : Addr).toNat % 2048) ∧
    ¬ ((0x2000 : Addr).toNat ≤ 0x1FFF ∧ (0x2000 : Addr).toNat % 2048 = (0x1FFF : Addr).toNat % 2048) ∧
    ¬ ((0x1FFE : Addr).toNat ≤ 0x1FFF ∧ (0x1FFE : Addr).toNat % 2048 = (0x1FFF : Addr).toNat % 2048) := by
  decide

theorem witness_CartridgeWritesAreDiscarded :
    0x8000 ≤ (0x8000 : Addr).toNat ∧ effAddr (.abs 0x8000) State.reset = 0x8000 := by decide

/-- Each clause of ProgramStorageWrapsInItsWindow. -/
theorem witness_ProgramStorageWrapsInItsWindow :
    0x8000 ≤ (0xBFFF : Addr).toNat ∧ (0xBFFF : Addr).toNat < 0xC000 ∧ State.reset.cart.prgBanks = 1 ∧
    2 ≤ ({ State.reset with cart := { Cartridge.blank with prgBanks := 2 } } : State).cart.prgBanks := by
  decide

theorem witness_ConstructionSetsTheResetValues : Cartridge.blank.wf = true := by decide

theorem witness_ResetVectorExampleGivesPc8000 :
    let s := State.construct Config.default ResetParams.default { Cartridge.blank with prg := [(0x3FFD, 0x80)] }
    s.read 0xFFFC = 0x00 ∧ s.read 0xFFFD = 0x80 := by
  decide

theorem witness_CartridgeLoadRoundTrip : ∃ c, Cartridge.load image = .ok c ∧ 16383 < c.prgLen := by
  obtain ⟨c, hc⟩ := image_loads
  refine ⟨c, hc, ?_⟩
  have hb : (image.getD 4 0).toNat = 1 := rfl
  unfold Cartridge.load at hc
  simp only [hb] at hc
  split at hc; · cases hc
  split at hc; · cases hc
  split at hc; · cases hc
  split at hc; · cases hc
  cases hc
  decide

/-- The bad-image clause at its least image and at one whose program bytes are one short; the other clause by `image`. -/
theorem witness_CartridgeLoadFailsExactlyOnBadImages :
    ([] : List Byte).take 4 ≠ [0x4E, 0x45, 0x53, 0x1A] ∧
    (let short := image.take 16399
     short.length < 16 + (if (short.getD 6 0).getLsbD 2 then 512 else 0) + (short.getD 4 0).toNat * 16384 +
       (short.getD 5 0).toNat * 8192) ∧
    ¬ (image.take 4 ≠ [0x4E, 0x45, 0x53, 0x1A] ∨ image.length < 16 ∨ (image.getD 4 0).toNat = 0 ∨
      image.length < 16 + (if (image.getD 6 0).getLsbD 2 then 512 else 0) + (image.getD 4 0).toNat * 16384 +
        (image.getD 5 0).toNat * 8192) := by
  have hlen : image.length = 16400 := image_length
  have h4 : image.getD 4 0 = 1 := rfl
  have h5 : image.getD 5 0 = 0 := rfl
  have h6 : image.getD 6 0 = 0 := rfl
  have ht : image.take 4 = [0x4E, 0x45, 0x53, 0x1A] := rfl
  have g4 : (image.take 16399).getD 4 0 = 1 := rfl
  have g5 : (image.take 16399).getD 5 0 = 0 := rfl
  have g6 : (image.take 16399).getD 6 0 = 0 := rfl
  refine ⟨by decide, ?_, ?_⟩
  · simp only [g4, g5, g6, List.length_take, hlen]; decide
  · rw [hlen, h4, h5, h6, ht]; decide

theorem witness_EveryStepKeepsTheStateLegal : ∃ t, State.reset.legal = true ∧ step State.reset = .next t :=
  have ⟨t, h⟩ := exec_next (State.reset.setPc State.reset.fallThrough) State.reset.fetchInstr
  ⟨t, by decide, by rw [step_of_running (by decide)]; exact h⟩

theorem witness_LoadedMachineStaysLegalAndKeepsItsProgram :
    ∃ cart t, Cartridge.load image = .ok cart ∧ Memory.wf 2048 ResetParams.default.ramInit = true ∧
      runSteps 1 (State.construct Config.default ResetParams.default cart) = some t := by
  obtain ⟨c, hc⟩ := image_loads
  let s := State.construct Config.default ResetParams.default c
  obtain ⟨t, ht⟩ := exec_next (s.setPc s.fallThrough) s.fetchInstr
  have hstep : step s = .next t := (step_of_running rfl).trans ht
  exact ⟨c, t, hc, by decide, by simp [runSteps, s, hstep]⟩

/-- One instruction of each kind the frames speak of runs. -/
theorem witness_RegistersChangeOnlyByTheirListedWriters :
    (exec .nop State.reset = .next State.reset ∧ raises State.reset.cfg .nop = false) ∧
    ∀ op, raises State.reset.cfg (.illegal op) = true := ⟨⟨rfl, rfl⟩, fun _ => rfl⟩

theorem witness_UnlistedFlagsKeepTheirValue : ∃ t, exec .inx State.reset = .next t ∧ (flagRow .inx).c = false :=
  ⟨_, rfl, rfl⟩

/-- A store to 0x07FF: its mirror 0x0FFF is one of the stored bytes, its neighbour and the unmapped 0x2000 are not. -/
theorem witness_MemoryChangesOnlyAtTheStoredBytes :
    (∃ t, exec (.sta (.abs 0x07FF)) State.reset = .next t) ∧
    (∀ u ∈ storedAddrs State.reset (.sta (.abs 0x07FF)), sameRamByte u 0x07FE = false ∧ sameRamByte u 0x2000 = false ∧
      sameRamByte u 0x0FFF = true) := by
  refine ⟨⟨_, exec_sta _ _⟩, fun u hu => ?_⟩
  obtain rfl := List.mem_singleton.mp hu
  decide

/-- ADC under each DECIMAL_MODE. -/
theorem witness_FlagsIAndDChangeNoExecution :
    (Instr.adc (.imm 0x19) ≠ .php ∧ Instr.adc (.imm 0x19) ≠ .brk) ∧
    (∃ t, exec (.adc (.imm 0x19)) { State.reset with cfg := ⟨true, true⟩ } = .next t) ∧
    State.reset.cfg.decimalMode = false ∧ ∃ t, exec (.adc (.imm 0x19)) State.reset = .next t :=
  ⟨⟨by decide, by decide⟩, ⟨_, rfl⟩, rfl, _, rfl⟩

/-- Both instructions from the reset state; the byte beside the pushed copy is another one. -/
theorem witness_PhpAndBrkReadIAndDForThePushedCopyAlone :
    (∃ t, exec .php State.reset = .next t ∧ sameRamByte (stackAddr (t.sp + 1)) 0x01FC = false) ∧
    ∃ t, exec .brk State.reset = .next t ∧ sameRamByte (stackAddr (t.sp + 1)) 0x01FC = false :=
  ⟨⟨_, rfl, by decide⟩, _, rfl, by decide⟩

/-- The accumulator, and the last RAM address through AbsoluteX. -/
theorem witness_NineRotatesReturnToTheStart :
    (ShiftOperand.acc.form = true ∧ ∀ u ∈ shiftStores State.reset .acc, u.toNat ≤ 0x1FFF) ∧
    ((ShiftOperand.mem (.absX 0x1FFF)).form = true ∧
      ∀ u ∈ shiftStores State.reset (.mem (.absX 0x1FFF)), u.toNat ≤ 0x1FFF) := by
  refine ⟨⟨rfl, fun u hu => ?_⟩, rfl, fun u hu => ?_⟩
  · cases hu
  · obtain rfl := List.mem_singleton.mp hu
    decide

theorem witness_PullAfterPushGivesTheByteBack : sameRamByte (stackAddr State.reset.sp) 0x01FC = false := by decide

theorem witness_StackInstructionsPushAndPull : ∃ t : Byte, t = State.reset.read (0x0100 + zext16 (State.reset.sp + 1)) :=
  ⟨_, rfl⟩

theorem witness_AdcAddsWithCarry :
    let s := { start 0x8002 [] [] with a := 0x7F, p := Status.ofPulled 0x25 }
    decimal s = false ∧ ∃ (m r : Byte) (t : Nat), m = readValue (.imm 0x00) s ∧
      t = s.a.toNat + m.toNat + s.p.c.toNat ∧ r = BitVec.ofNat 8 t := ⟨by decide, _, _, _, rfl, rfl, rfl⟩

theorem witness_AdcFlagsAreTheRangeTests : decimal State.reset = false := by decide

theorem witness_SbcSubtractsWithBorrow :
    decimal State.reset = false ∧ ∃ (m r : Byte) (b : Nat), m = readValue (.imm 0x01) State.reset ∧
      b = 1 - State.reset.p.c.toNat ∧ r = BitVec.ofInt 8 ((State.reset.a.toNat : Int) - m.toNat - b) :=
  ⟨by decide, _, _, _, rfl, rfl, rfl⟩

/-- A machine in decimal mode: A = 0x58, D and C set, DECIMAL_MODE true (V43.7). -/
def decimalState : State := { start 0x8000 [] [] with a := 0x58, p := Status.ofPulled 0x2D, cfg := ⟨true, true⟩ }

theorem witness_DecimalModeFollowsTheNmosAlgorithm :
    decimal decimalState = true ∧
    (∃ (m : Byte) (l lo t u : Nat) (g : Int), m = readValue (.imm 0x46) decimalState ∧
      l = decimalState.a.toNat % 16 + m.toNat % 16 + decimalState.p.c.toNat ∧
      lo = (if 10 ≤ l then (l + 6) % 16 + 16 else l) ∧ t = decimalState.a.toNat / 16 * 16 + m.toNat / 16 * 16 + lo ∧
      g = (decimalState.a &&& 0xF0).toInt + (m &&& 0xF0).toInt + lo ∧ u = (if 160 ≤ t then t + 96 else t)) ∧
    (∃ (m r : Byte) (b : Nat) (l lo t u : Int), m = readValue (.imm 0x46) decimalState ∧
      b = 1 - decimalState.p.c.toNat ∧ r = BitVec.ofInt 8 ((decimalState.a.toNat : Int) - m.toNat - b) ∧
      l = ((decimalState.a.toNat % 16 : Nat) : Int) - (m.toNat % 16 : Nat) - b ∧
      lo = (if l < 0 then (l - 6) % 16 - 16 else l) ∧
      t = ((decimalState.a.toNat / 16 * 16 : Nat) : Int) - (m.toNat / 16 * 16 : Nat) + lo ∧
      u = (if t < 0 then t - 96 else t)) :=
  ⟨by decide, ⟨_, _, _, _, _, _, rfl, rfl, rfl, rfl, rfl, rfl⟩, ⟨_, _, _, _, _, _, _, rfl, rfl, rfl, rfl, rfl, rfl, rfl⟩⟩

theorem witness_DecimalModeIsExactOnDigits :
    decimal decimalState = true ∧ isBcd decimalState.a ∧ isBcd (readValue (.imm 0x99) decimalState) := by
  unfold isBcd
  decide

theorem witness_ComparesSetCarryZeroAndNegative : ∃ m : Byte, m = readValue (.mem (.zp 0x10)) State.reset := ⟨_, rfl⟩

theorem witness_IncAndDecWriteBackOneByte : ∃ v : Byte, v = State.reset.read (effAddr (.abs 0x8000) State.reset) := ⟨_, rfl⟩

theorem witness_ShiftsMoveEveryBitByOne :
    ∃ v l r rl rr : Byte, v = shiftValue (.mem (.zp 0x10)) State.reset ∧
      l = BitVec.ofNat 8 (2 * v.toNat) ∧ r = BitVec.ofNat 8 (v.toNat / 2) ∧
      rl = BitVec.ofNat 8 (2 * v.toNat + State.reset.p.c.toNat) ∧
      rr = BitVec.ofNat 8 (v.toNat / 2 + 128 * State.reset.p.c.toNat) :=
  ⟨_, _, _, _, _, rfl, rfl, rfl, rfl, rfl⟩

theorem witness_BranchesTestOneFlag :
    ((fun off => Instr.bne off), (0xD0 : Byte), fun s : State => !s.p.z) ∈
      ([(.bpl, 0x10, fun s => !s.p.n), (.bmi, 0x30, fun s => s.p.n), (.bvc, 0x50, fun s => !s.p.v),
        (.bvs, 0x70, fun s => s.p.v), (.bcc, 0x90, fun s => !s.p.c), (.bcs, 0xB0, fun s => s.p.c),
        (.bne, 0xD0, fun s => !s.p.z), (.beq, 0xF0, fun s => s.p.z)] : List ((Byte → Instr) × Byte × (State → Bool))) := by
  simp

theorem witness_RtsUndoesJsr : ∃ t, exec (.jsr 0x9000) State.reset = .next t := ⟨_, rfl⟩

theorem witness_RtiRestoresStatusAndPc : ∃ t : Byte, t = State.reset.read (stackAddr (State.reset.sp + 1)) := ⟨_, rfl⟩

theorem witness_RtiUndoesBrk : ∃ t, exec .brk State.reset = .next t := ⟨_, rfl⟩

theorem witness_UndocumentedNopsFollowThePolicy :
    ((Instr.nopAbs 0x0200, (0x0C : Byte), (3 : Addr)) = (.nopAbs 0x0200, 0x0C, 3)) ∧
    State.reset.cfg.undocNopExec = true ∧ ({ State.reset with cfg := ⟨false, false⟩ } : State).cfg.undocNopExec = false :=
  ⟨rfl, rfl, rfl⟩

/-- Both cases of StepResultAgreesWithTheStep occur. -/
theorem witness_StepResultAgreesWithTheStep :
    (∃ t, step (start 0x8000 [0x02] []) = .next t ∧ t.fault = some ⟨0x02, 0x8000⟩) ∧
    ∃ t, step (start 0x8000 [0xEA] []) = .next t ∧ t.fault = none := ⟨⟨_, rfl, by decide⟩, ⟨_, rfl, by decide⟩⟩

theorem witness_PlacedWordIsTheNextInstruction :
    State.reset.cart.wf = true ∧ decodeTableWord 24 0x2000BD = some (.lda (.mem (.absX 0x2000))) := by decide

/-- PC in the unmapped region and PC on the last address: the placed word still runs. -/
theorem test_placed_word :
    (({ State.reset with pc := 0x7FFE } : State).withFetchWord 16 0x05A9).fetchInstr = .lda (.imm 0x05) ∧
    (({ State.reset with pc := 0xFFFF } : State).withFetchWord 24 0x12349D).fetchInstr = .sta (.absX 0x1234) := by
  decide

end Sys2Proof.Tests
end

section
/-! PROOFS about the machine's state (10_state.md): which register and which flag an instruction writes, and which
instructions read the flags I and D. -/

namespace Sys2Proof.Proofs

open Sys2Proof Sys2Proof.Machine Sys2Proof.Claims

/-! ### Registers

For each register of 10_state.md R31 to R35: the hypothesis fails for its listed writers; for the others the equation of
the instruction and the field law of its operation give the frame. -/

/-- A shift writes A in its accumulator form alone. -/
theorem exec_a_of_not_writesA (i : Instr) (s : State) :
    ∀ t, exec i s = .next t → writesA i = false → t.a = s.a := by
  cases i with
  | lda _ | txa | tya | pla | adc _ | sbc _ | and _ | ora _ | eor _ => simp [writesA]
  | asl o | lsr o | rol o | ror o => cases o <;> simp [writesA, isAcc]
  | _ => simp

theorem exec_x_of_not_writesX (i : Instr) (s : State) :
    ∀ t, exec i s = .next t → writesX i = false → t.x = s.x := by
  cases i with
  | ldx _ | tax | tsx | inx | dex => simp [writesX]
  | _ => simp

theorem exec_y_of_not_writesY (i : Instr) (s : State) :
    ∀ t, exec i s = .next t → writesY i = false → t.y = s.y := by
  cases i with
  | ldy _ | tay | iny | dey => simp [writesY]
  | _ => simp

theorem exec_sp_of_not_writesSp (i : Instr) (s : State) :
    ∀ t, exec i s = .next t → writesSp i = false → t.sp = s.sp := by
  cases i with
  | txs | pha | php | pla | plp | jsr _ | rts | brk | rti => simp [writesSp]
  | _ => simp

theorem exec_pc_of_not_writesPc (i : Instr) (s : State) :
    ∀ t, exec i s = .next t → writesPc i = false → raises s.cfg i = false → t.pc = s.pc := by
  cases i with
  | bpl _ | bmi _ | bvc _ | bvs _ | bcc _ | bcs _ | bne _ | beq _ | jmp _ | jsr _ | rts | brk | rti =>
    simp [writesPc]
  | nopImp _ | nopImm _ _ | nopZp _ _ | nopZpX _ _ | nopAbs _ | nopAbsX _ _ =>
    simp +contextual [raises]
  | illegal _ => simp [raises]
  | _ => simp

theorem exec_fault_of_not_raises (i : Instr) (s : State) :
    ∀ t, exec i s = .next t → raises s.cfg i = false → t.fault = s.fault := by
  cases i with
  | nopImp _ | nopImm _ _ | nopZp _ _ | nopZpX _ _ | nopAbs _ | nopAbsX _ _ =>
    simp +contextual [raises]
  | illegal _ => simp [raises]
  | _ => simp

/-- No operation of an instruction writes the cartridge or the parameters. -/
theorem exec_cart (i : Instr) (s : State) : ∀ t, exec i s = .next t → t.cart = s.cart := by
  cases i <;> simp

theorem exec_cfg (i : Instr) (s : State) : ∀ t, exec i s = .next t → t.cfg = s.cfg := by
  cases i <;> simp

/-- Settles O22, register by register. -/
theorem registersChangeOnlyByTheirListedWriters : Obligations.RegistersChangeOnlyByTheirListedWriters :=
  fun i s t h => ⟨exec_a_of_not_writesA i s t h, exec_x_of_not_writesX i s t h, exec_y_of_not_writesY i s t h,
    exec_sp_of_not_writesSp i s t h, exec_pc_of_not_writesPc i s t h, exec_cart i s t h, exec_cfg i s t h,
    exec_fault_of_not_raises i s t h⟩

/-! ### Flags -/

/-- Of the flags of `p`, `q` keeps those that the row does not list. -/
def KeepsUnlisted (r : FlagRow) (p q : Status) : Prop :=
  (r.n = false → q.n = p.n) ∧ (r.v = false → q.v = p.v) ∧ (r.d = false → q.d = p.d) ∧
  (r.i = false → q.i = p.i) ∧ (r.z = false → q.z = p.z) ∧ (r.c = false → q.c = p.c)

theorem keepsUnlisted_refl (r : FlagRow) (p : Status) : KeepsUnlisted r p p := by simp [KeepsUnlisted]

theorem keepsUnlisted_withNZ (p : Status) (v : Byte) :
    KeepsUnlisted ⟨true, false, false, false, true, false⟩ p (p.withNZ v) := by simp [KeepsUnlisted]

theorem keepsUnlisted_withNVZC (p : Status) (o : AluResult) :
    KeepsUnlisted ⟨true, true, false, false, true, true⟩ p (p.withNVZC o) := by simp [KeepsUnlisted]

theorem keepsUnlisted_bitTest (p : Status) (a m : Byte) :
    KeepsUnlisted ⟨true, true, false, false, true, false⟩ p (p.bitTest a m) := by simp [KeepsUnlisted]

theorem keepsUnlisted_compare (p : Status) (r m : Byte) :
    KeepsUnlisted ⟨true, false, false, false, true, true⟩ p (p.compare r m) := by simp [KeepsUnlisted]

theorem keepsUnlisted_withShift (p : Status) (o : ShiftResult) :
    KeepsUnlisted ⟨true, false, false, false, true, true⟩ p (p.withShift o) := by simp [KeepsUnlisted]

/-- The groups are those of the table of 10_state.md R44: one per operation on P. -/
theorem exec_keepsUnlisted (i : Instr) (s : State) :
    ∀ t, exec i s = .next t → KeepsUnlisted (flagRow i) s.p t.p := by
  cases i with
  | lda _ | ldx _ | ldy _ | tax | tay | txa | tya | tsx | pla | and _ | ora _ | eor _ | inc _ | dec _
  | inx | iny | dex | dey => simp [flagRow, keepsUnlisted_withNZ]
  | adc _ | sbc _ => simp [flagRow, keepsUnlisted_withNVZC]
  | bit _ => simp [flagRow, keepsUnlisted_bitTest]
  | cmp _ | cpx _ | cpy _ => simp [flagRow, keepsUnlisted_compare]
  | asl _ | lsr _ | rol _ | ror _ => simp [flagRow, keepsUnlisted_withShift]
  | plp | rti | brk | clc | sec | cli | sei | cld | sed | clv => simp [flagRow, KeepsUnlisted]
  | _ => simp [keepsUnlisted_refl]

/-- Settles O23: its six clauses are `KeepsUnlisted`, unfolded. -/
theorem unlistedFlagsKeepTheirValue : Obligations.UnlistedFlagsKeepTheirValue := exec_keepsUnlisted

/-! ### What depends on P

Addresses, operand values and pulled bytes do not. -/

@[simp] theorem effAddr_setP (m : MemOperand) (s : State) (p : Status) : effAddr m (s.setP p) = effAddr m s := by
  cases m <;> rfl

@[simp] theorem memValue_setP (m : MemOperand) (s : State) (p : Status) : memValue m (s.setP p) = memValue m s := by
  simp [memValue]

@[simp] theorem readValue_setP (o : ReadOperand) (s : State) (p : Status) :
    readValue o (s.setP p) = readValue o s := by
  cases o <;> simp [readValue]

@[simp] theorem shiftValue_setP (o : ShiftOperand) (s : State) (p : Status) :
    shiftValue o (s.setP p) = shiftValue o s := by
  cases o <;> simp [shiftValue]

@[simp] theorem jumpTarget_setP (j : JumpOperand) (s : State) (p : Status) :
    jumpTarget j (s.setP p) = jumpTarget j s := by
  cases j <;> rfl

@[simp] theorem pulled_setP (s : State) (p : Status) : (s.setP p).pulled = s.pulled := rfl

@[simp] theorem pulledAddr_setP (s : State) (p : Status) : (s.setP p).pulledAddr = s.pulledAddr := rfl

/-! An operation on a state with P replaced is the operation, with P replaced after it. -/

@[simp] theorem setP_setP (s : State) (p q : Status) : (s.setP p).setP q = s.setP q := rfl
@[simp] theorem setA_setP (s : State) (p : Status) (v : Byte) : (s.setP p).setA v = (s.setA v).setP p := rfl
@[simp] theorem setX_setP (s : State) (p : Status) (v : Byte) : (s.setP p).setX v = (s.setX v).setP p := rfl
@[simp] theorem setY_setP (s : State) (p : Status) (v : Byte) : (s.setP p).setY v = (s.setY v).setP p := rfl
@[simp] theorem setSp_setP (s : State) (p : Status) (v : Byte) : (s.setP p).setSp v = (s.setSp v).setP p := rfl
@[simp] theorem setPc_setP (s : State) (p : Status) (w : Addr) : (s.setP p).setPc w = (s.setPc w).setP p := rfl
@[simp] theorem setNZ_setP (s : State) (p : Status) (v : Byte) : (s.setP p).setNZ v = s.setP (p.withNZ v) := rfl
@[simp] theorem write_setP (s : State) (p : Status) (w : Addr) (v : Byte) :
    (s.setP p).write w v = (s.write w v).setP p := rfl
@[simp] theorem push_setP (s : State) (p : Status) (v : Byte) : (s.setP p).push v = (s.push v).setP p := rfl
@[simp] theorem afterPull_setP (s : State) (p : Status) : (s.setP p).afterPull = s.afterPull.setP p := rfl
@[simp] theorem pushAddr_setP (s : State) (p : Status) (w : Addr) :
    (s.setP p).pushAddr w = (s.pushAddr w).setP p := rfl
@[simp] theorem raiseIllegalOpcode_setP (s : State) (p : Status) (op : Byte) (w : Addr) :
    (s.setP p).raiseIllegalOpcode op w = (s.raiseIllegalOpcode op w).setP p := rfl
@[simp] theorem writeAlu_setP (s : State) (p : Status) (o : AluResult) :
    (s.setP p).writeAlu o = (s.writeAlu o).setP (p.withNVZC o) := rfl
@[simp] theorem writeLogic_setP (s : State) (p : Status) (r : Byte) :
    (s.setP p).writeLogic r = (s.writeLogic r).setP (p.withNZ r) := rfl
@[simp] theorem writeBack_setP (s : State) (p : Status) (w : Addr) (r : Byte) :
    (s.setP p).writeBack w r = (s.writeBack w r).setP (p.withNZ r) := rfl
@[simp] theorem finishShift_setP (s : State) (p : Status) (o : ShiftOperand) (r : ShiftResult) :
    (s.setP p).finishShift o r = (s.finishShift o r).setP (p.withShift r) := by
  cases o <;> simp [State.finishShift, writeShift]
@[simp] theorem branch_setP (s : State) (p : Status) (c : Bool) (off : Byte) :
    (s.setP p).branch c off = (s.branch c off).setP p := by
  cases c <;> rfl
@[simp] theorem undocumentedNop_setP (s : State) (p : Status) (op : Byte) (n : Addr) :
    undocumentedNop op n (s.setP p) = (undocumentedNop op n s).setP p := by
  by_cases h : s.cfg.undocNopExec = true <;> simp [undocumentedNop, h]
@[simp] theorem setNZ_then_setP (s : State) (v : Byte) (p : Status) : (s.setNZ v).setP p = s.setP p := rfl
@[simp] theorem returnFromTrap_setP_ofPulled (s : State) :
    s.returnFromTrap.setP (Status.ofPulled s.pulled) = s.returnFromTrap := rfl
@[simp] theorem returnFromTrap_setP (s : State) (p : Status) : (s.setP p).returnFromTrap = s.returnFromTrap := rfl

/-! ### I and D -/

/-- P with I and D replaced. -/
def withID (p : Status) (i d : Bool) : Status := { p with i := i, d := d }

@[simp] theorem withID_n (p : Status) (i d : Bool) : (withID p i d).n = p.n := rfl
@[simp] theorem withID_v (p : Status) (i d : Bool) : (withID p i d).v = p.v := rfl
@[simp] theorem withID_z (p : Status) (i d : Bool) : (withID p i d).z = p.z := rfl
@[simp] theorem withID_c (p : Status) (i d : Bool) : (withID p i d).c = p.c := rfl
@[simp] theorem withID_self (p : Status) : withID p p.i p.d = p := rfl
@[simp] theorem withID_withNZ (p : Status) (i d : Bool) (v : Byte) :
    (withID p i d).withNZ v = withID (p.withNZ v) i d := rfl
@[simp] theorem withID_withNVZC (p : Status) (i d : Bool) (o : AluResult) :
    (withID p i d).withNVZC o = withID (p.withNVZC o) i d := rfl
@[simp] theorem withID_compare (p : Status) (i d : Bool) (r m : Byte) :
    (withID p i d).compare r m = withID (p.compare r m) i d := rfl
@[simp] theorem withID_bitTest (p : Status) (i d : Bool) (a m : Byte) :
    (withID p i d).bitTest a m = withID (p.bitTest a m) i d := rfl
@[simp] theorem withID_withShift (p : Status) (i d : Bool) (o : ShiftResult) :
    (withID p i d).withShift o = withID (p.withShift o) i d := rfl

/-- The test for decimal mode takes D under DECIMAL_MODE alone (43_arith_logic.md R205, R206). -/
theorem decimalTest_withID {cfg : Config} {p : Status} {d : Bool} (hd : cfg.decimalMode = false ∨ d = p.d) (i : Bool) :
    (cfg.decimalMode && (withID p i d).d) = (cfg.decimalMode && p.d) := by
  rcases hd with h | rfl
  · simp [h]
  · rfl

theorem adcResult_withID {cfg : Config} {p : Status} {d : Bool} (hd : cfg.decimalMode = false ∨ d = p.d)
    (i : Bool) (a m : Byte) : adcResult cfg (withID p i d) a m = adcResult cfg p a m := by
  rw [adcResult, decimalTest_withID hd, withID_c, adcResult]

theorem sbcResult_withID {cfg : Config} {p : Status} {d : Bool} (hd : cfg.decimalMode = false ∨ d = p.d)
    (i : Bool) (a m : Byte) : sbcResult cfg (withID p i d) a m = sbcResult cfg p a m := by
  rw [sbcResult, decimalTest_withID hd, withID_c, sbcResult]

/-- P with I and D replaced where the row says that they are not written. -/
def withUnlistedID (r : FlagRow) (p : Status) (i d : Bool) : Status :=
  withID p (if r.i then p.i else i) (if r.d then p.d else d)

/-- Both flags at once. The idea: PHP and BRK apart, I is read by no instruction, D by ADC and SBC alone. -/
theorem exec_withID (i : Instr) (s : State) (b e : Bool) (hd : s.cfg.decimalMode = false ∨ e = s.p.d)
    (hphp : i ≠ .php) (hbrk : i ≠ .brk) : ∀ t, exec i s = .next t →
    exec i (s.setP (withID s.p b e)) = .next (t.setP (withUnlistedID (flagRow i) t.p b e)) := by
  cases i with
  | php => exact absurd rfl hphp
  | brk => exact absurd rfl hbrk
  | adc o => simp [adcResult_withID hd, flagRow, withUnlistedID]
  | sbc o => simp [sbcResult_withID hd, flagRow, withUnlistedID]
  | clc | sec | cli | sei | cld | sed | clv => simp [flagRow, withUnlistedID, withID]
  | _ => simp [flagRow, withUnlistedID]

/-- Settles O25: D's clause takes I as it is and I's clause takes D as it is; the frame of flags (O23) says that the flag
taken as it is stays. -/
theorem flagsIAndDChangeNoExecution : Obligations.FlagsIAndDChangeNoExecution := by
  intro i s t b hphp hbrk h
  obtain ⟨-, -, keepsD, keepsI, -, -⟩ := exec_keepsUnlisted i s t h
  constructor
  · have hd : (if (flagRow i).d then t.p.d else s.p.d) = t.p.d := by simpa using fun hrow => (keepsD hrow).symm
    have hexec := exec_withID i s b s.p.d (.inr rfl) hphp hbrk t h
    rwa [withUnlistedID, hd] at hexec
  · intro hdec
    have hi : (if (flagRow i).i then t.p.i else s.p.i) = t.p.i := by simpa using fun hrow => (keepsI hrow).symm
    have hexec := exec_withID i s s.p.i b (.inl hdec) hphp hbrk t h
    rwa [withUnlistedID, hi] at hexec

theorem state_eq_of_fields {s t : State} (ha : s.a = t.a) (hx : s.x = t.x) (hy : s.y = t.y) (hsp : s.sp = t.sp)
    (hpc : s.pc = t.pc) (hp : s.p = t.p) (hram : s.ram = t.ram) (hcart : s.cart = t.cart)
    (hfault : s.fault = t.fault) (hcfg : s.cfg = t.cfg) : s = t := by
  cases s; cases t; simp_all

/-- The trap entry reads P for the pushed copy alone: not for PC, which comes from the cartridge window. -/
theorem enterTrap_setP (s : State) (p : Status) (ret : Addr) :
    (s.setP p).enterTrap ret =
      { s.enterTrap ret with p := { p with i := true }, ram := ((s.setP p).enterTrap ret).ram } := by
  apply state_eq_of_fields <;> simp [State.read16]

/-- `u` is `t` but for P, which is `q`, and the byte last pushed, which is the copy of `p`. -/
structure DiffersInPushedCopy (t u : State) (p q : Status) : Prop where
  fields : u = { t with p := q, ram := u.ram }
  pushed : u.read (stackAddr (t.sp + 1)) = p.pushed
  others : ∀ w : Addr, sameRamByte (stackAddr (t.sp + 1)) w = false → u.read w = t.read w

theorem push_differsInPushedCopy (s : State) (p : Status) :
    DiffersInPushedCopy (s.push s.p.pushed) ((s.setP p).push p.pushed) p p := by
  have hsp : (s.push s.p.pushed).sp + 1 = s.sp := by simp
  refine ⟨rfl, ?_, ?_⟩ <;> rw [hsp]
  · simp [State.read_push, sameRamByte_stackAddr]
  · intro w hw
    simp [State.read_push, hw]

theorem enterTrap_differsInPushedCopy (s : State) (p : Status) (ret : Addr) :
    DiffersInPushedCopy (s.enterTrap ret) ((s.setP p).enterTrap ret) p { p with i := true } := by
  have hsp : (s.enterTrap ret).sp + 1 = s.sp - 1 - 1 := by simp
  refine ⟨enterTrap_setP s p ret, ?_, ?_⟩ <;> rw [hsp]
  · simp [sameRamByte_stackAddr]
  · intro w hw
    simp only [State.enterTrap_read, State.setP_sp, hw, pushAddr_setP, State.setP_read, Bool.false_eq_true, if_false]

/-- Settles O60: PHP is a push and BRK a trap entry, each of which reads P for the pushed copy alone. -/
theorem phpAndBrkReadIAndDForThePushedCopyAlone : Obligations.PhpAndBrkReadIAndDForThePushedCopyAlone := by
  rintro i s t b e (rfl | rfl) h <;> obtain rfl := Host.Outcome.next.inj h
  · obtain ⟨hfields, hpushed, hothers⟩ := push_differsInPushedCopy s (withID s.p b e)
    exact ⟨_, rfl, hfields, hpushed, hothers⟩
  · obtain ⟨hfields, hpushed, hothers⟩ := enterTrap_differsInPushedCopy s (withID s.p b e) (s.pc + 1)
    exact ⟨_, rfl, hfields, hpushed, hothers⟩

end Sys2Proof.Proofs
end

section
/-! PROOFS about memory (20_memory.md): what a bus read and a bus write do in each region of the address map, and what
every step keeps: the canonical form of RAM, the cartridge, and a precise fault record. -/

namespace Sys2Proof.Proofs

open Sys2Proof Sys2Proof.Machine Sys2Proof.Laws Sys2Proof.Claims

/-! ### The three regions of the address map -/

theorem isRam_eq_false_of_cartridge {w : Addr} (h : 0x8000 ≤ w.toNat) : isRam w = false :=
  not_isRam_of_isCartridge ((isCartridge_iff w).mpr h)

theorem read_of_ram (s : State) {w : Addr} (h : w.toNat ≤ 0x1FFF) : s.read w = s.ram.read (w.toNat % 2048) := by
  rw [State.read, busRead, if_pos ((isRam_iff w).mpr h), ramIndex_eq]

theorem read_of_cartridge (s : State) {w : Addr} (h : 0x8000 ≤ w.toNat) :
    s.read w = s.cart.prg.read ((w.toNat - 0x8000) % (s.cart.prgBanks * 16384)) := by
  rw [State.read, busRead, isRam_eq_false_of_cartridge h, if_pos ((isCartridge_iff w).mpr h)]
  rfl

theorem read_of_unmapped (s : State) {w : Addr} (hram : ¬ w.toNat ≤ 0x1FFF) (hcart : ¬ 0x8000 ≤ w.toNat) :
    s.read w = 0x00 := by
  rw [State.read, busRead, if_neg (mt (isRam_iff w).mp hram), if_neg (mt (isCartridge_iff w).mp hcart)]
  rfl

/-- Settles O10, region by region. -/
theorem busReadDecodesTheAddress : Obligations.BusReadDecodesTheAddress := by
  intro s w
  split
  case isTrue hram => rw [read_of_ram s hram, ← ramIndex_eq, ramIndex]
  case isFalse hram =>
    split
    case isTrue hcart => exact read_of_cartridge s hcart
    case isFalse hcart => exact read_of_unmapped s hram hcart

/-! ### RAM and its mirrors -/

theorem sameRamByte_iff (u w : Addr) :
    sameRamByte u w = true ↔ u.toNat ≤ 0x1FFF ∧ w.toNat ≤ 0x1FFF ∧ u.toNat % 2048 = w.toNat % 2048 := by
  simp only [sameRamByte, Bool.and_eq_true, beq_iff_eq, isRam_iff, ramIndex_eq, and_assoc]

/-- The mirror `k` bytes above a RAM byte, within the RAM window. -/
theorem read_add_mirror (s : State) {w k : Addr} (hw : w.toNat < 0x0800) (hk : k.toNat ≤ 0x1800)
    (hmirror : k.toNat % 2048 = 0) : s.read (w + k) = s.read w := by
  have hadd : (w + k).toNat = w.toNat + k.toNat := BitVec.toNat_add_of_lt (by omega)
  have hmod : (w.toNat + k.toNat) % 2048 = w.toNat % 2048 := by omega
  rw [read_of_ram s (by omega), read_of_ram s (by omega), hadd, hmod]

/-- Settles O11: the three upper mirrors read as the byte itself. -/
theorem ramMirrorsNameOneByte : Obligations.RamMirrorsNameOneByte := by
  intro s w hw
  refine ⟨?_, read_add_mirror s hw (by decide) (by decide), read_add_mirror s hw (by decide) (by decide),
    read_add_mirror s hw (by decide) (by decide)⟩
  rw [read_of_ram s (by omega), Nat.mod_eq_of_lt hw]

/-- Bit 11 lies within the window and above the RAM index, so flipping it names another mirror. -/
theorem sameRamByte_xor_0800 {u : Addr} (hu : u.toNat ≤ 0x1FFF) : sameRamByte u (u ^^^ 0x0800) = true := by
  have hxor : (u ^^^ 0x0800).toNat = u.toNat ^^^ 0x0800 := BitVec.toNat_xor u 0x0800
  have hlt : u.toNat ^^^ 0x0800 < 2 ^ 13 := Nat.xor_lt_two_pow (by omega) (by decide)
  have hmod : (u.toNat ^^^ 0x0800) % 2 ^ 11 = u.toNat % 2 ^ 11 ^^^ 0x0800 % 2 ^ 11 := Nat.xor_mod_two_pow
  rw [sameRamByte_iff, hxor]
  exact ⟨hu, Nat.le_of_lt_succ hlt, by simpa using hmod.symm⟩

/-- Settles O12: what a read gives after a write, for the addresses that name the written byte and for the others. -/
theorem writeReachesItsRamByteAlone : Obligations.WriteReachesItsRamByteAlone := by
  intro s u w v hu
  have hsame : sameRamByte u w = true ↔ w.toNat ≤ 0x1FFF ∧ w.toNat % 2048 = u.toNat % 2048 := by
    rw [sameRamByte_iff, eq_comm]
    exact and_iff_right hu
  refine ⟨?_, fun hw hbyte => ?_, fun hother => ?_, rfl⟩
  · rw [State.read_write, if_pos (sameRamByte_xor_0800 hu)]
  · rw [State.read_write, if_pos (hsame.mpr ⟨hw, hbyte⟩)]
  · rw [State.read_write, if_neg (mt hsame.mp hother)]

/-! ### The cartridge window -/

theorem write_of_cartridge (s : State) {w : Addr} (h : 0x8000 ≤ w.toNat) (v : Byte) : s.write w v = s :=
  s.write_of_not_isRam (isRam_eq_false_of_cartridge h) v

/-- Settles O13: each store is a bus write. -/
theorem cartridgeWritesAreDiscarded : Obligations.CartridgeWritesAreDiscarded := by
  intro s w v hw
  refine ⟨write_of_cartridge s hw v, fun m hm => ?_⟩
  simp only [exec_sta, exec_stx, exec_sty, hm, write_of_cartridge s hw, and_self]

/-- One bank: 0x8000 is a multiple of its length. -/
theorem read_of_one_bank (s : State) {w : Addr} (hw : 0x8000 ≤ w.toNat) (hone : s.cart.prgBanks = 1) :
    s.read w = s.cart.prg.read (w.toNat % 0x4000) := by
  have hindex : (w.toNat - 0x8000) % (1 * 16384) = w.toNat % 0x4000 := by omega
  rw [read_of_cartridge s hw, hone, hindex]

/-- Two banks or more: the window is not longer than the storage, so the index does not wrap. -/
theorem read_of_two_banks (s : State) {w : Addr} (hw : 0x8000 ≤ w.toNat) (htwo : 2 ≤ s.cart.prgBanks) :
    s.read w = s.cart.prg.read (w.toNat - 0x8000) := by
  have hlt : w.toNat - 0x8000 < s.cart.prgBanks * 16384 := by omega
  rw [read_of_cartridge s hw, Nat.mod_eq_of_lt hlt]

/-- Settles O14, by the number of banks. -/
theorem programStorageWrapsInItsWindow : Obligations.ProgramStorageWrapsInItsWindow := by
  intro s w hw
  refine ⟨read_of_one_bank s hw, fun hone hlow => ?_, read_of_two_banks s hw⟩
  have hadd : (w + 0x4000).toNat = w.toNat + 0x4000 :=
    BitVec.toNat_add_of_lt (show w.toNat + 0x4000 < 2 ^ 16 by omega)
  have hmod : (w.toNat + 0x4000) % 0x4000 = w.toNat % 0x4000 := Nat.add_mod_right _ _
  rw [read_of_one_bank s (by omega) hone, read_of_one_bank s hw hone, hadd, hmod]

/-! ### Raising IllegalOpcode

The decoder's answer and the state a raising step leaves (40_step_and_addressing.md R132, 60_exceptions.md R300, R301). -/

/-- What ignores the operand bytes of an instruction can be read off the instruction with operand bytes 0. -/
theorem apply_instrOf {α : Type} (f : Instr → α) (op b1 b2 : Byte)
    (hdoc : ∀ m mode, (documentedInstr m mode b1 b2).map f = (documentedInstr m mode 0 0).map f)
    (hund : ∀ mode, (undocumentedInstr mode op b1 b2).map f = (undocumentedInstr mode op 0 0).map f) :
    f (instrOf op b1 b2) = f (instrOf op 0 0) := by
  unfold instrOf
  split
  · rw [← Option.getD_map f, hdoc, Option.getD_map]
  · rw [← Option.getD_map f, hund, Option.getD_map]
  · rfl

/-- The decoder keeps the opcode byte. -/
theorem opcode_instrOf (op b1 b2 : Byte) : opcode (instrOf op b1 b2) = some op := by
  have htable : ∀ op : Byte, opcode (instrOf op 0 0) = some op := by decide
  rw [apply_instrOf opcode op b1 b2 (fun m mode => by cases m <;> cases mode <;> rfl)
    (fun mode => by cases mode <;> rfl), htable]

/-- An instruction raises IllegalOpcode exactly when its opcode byte does. -/
theorem raises_instrOf (cfg : Config) (op b1 b2 : Byte) : raises cfg (instrOf op b1 b2) = raisesIllegal cfg op := by
  have htable : ∀ (d u : Bool) (op : Byte), raises ⟨d, u⟩ (instrOf op 0 0) = raisesIllegal ⟨d, u⟩ op := by decide
  rw [apply_instrOf (raises cfg) op b1 b2 (fun m mode => by cases m <;> cases mode <;> rfl)
    (fun mode => by cases mode <;> rfl), htable cfg.decimalMode cfg.undocNopExec]

theorem undocumentedNop_of_policy_off {s : State} (h : s.cfg.undocNopExec = false) (op : Byte) (n : Addr) :
    undocumentedNop op n s = s.raiseIllegalOpcode op (s.pc - n) := by
  simp [undocumentedNop, h]

/-- A raising instruction records its opcode byte at the address its length before the fall-through address. -/
theorem exec_of_raises {i : Instr} {s : State} {op : Byte} (hop : opcode i = some op) (h : raises s.cfg i = true) :
    exec i s = .next (s.raiseIllegalOpcode op (s.pc - BitVec.ofNat 16 (instrLength i))) := by
  cases i with
  | illegal _ =>
    obtain ⟨-, rfl⟩ : _ ∧ _ = op := by simpa [opcode] using hop
    rfl
  | nopImp _ | nopImm _ _ | nopZp _ _ | nopZpX _ _ | nopAbsX _ _ =>
    obtain ⟨-, rfl⟩ : _ ∧ _ = op := by simpa [opcode] using hop
    exact congrArg _ (undocumentedNop_of_policy_off (by simpa [raises] using h) _ _)
  | nopAbs _ =>
    obtain rfl : 0x0C = op := by simpa [opcode] using hop
    exact congrArg _ (undocumentedNop_of_policy_off (by simpa [raises] using h) _ _)
  | _ => simp [raises] at h

theorem fetchInstr_eq_instrOf (s : State) : ∃ b1 b2, s.fetchInstr = instrOf s.fetchOpcode b1 b2 := by
  unfold State.fetchInstr
  split <;> exact ⟨_, _, rfl⟩

theorem fallThrough_eq_pc_add_length (s : State) :
    s.fallThrough = s.pc + BitVec.ofNat 16 (instrLength s.fetchInstr) := by
  obtain ⟨b1, b2, hfetch⟩ := fetchInstr_eq_instrOf s
  rw [hfetch, instrLength_instrOf, State.fallThrough, BitVec.add_assoc, BitVec.ofNat_add]
  rfl

/-- The two things a step can do to the fault record: an opcode byte that raises changes that record and PC alone, any
other leaves it empty. -/
theorem step_raise_cases {s t : State} (h : step s = .next t) :
    (raisesIllegal s.cfg s.fetchOpcode = true ∧ t = s.raiseIllegalOpcode s.fetchOpcode s.pc) ∨
    (raisesIllegal s.cfg s.fetchOpcode = false ∧ t.fault = none) := by
  obtain ⟨hfault, hexec⟩ := step_next h
  obtain ⟨b1, b2, hfetch⟩ := fetchInstr_eq_instrOf s
  have hraises : raises s.cfg s.fetchInstr = raisesIllegal s.cfg s.fetchOpcode := by rw [hfetch, raises_instrOf]
  cases hr : raisesIllegal s.cfg s.fetchOpcode with
  | true =>
    have hop : opcode s.fetchInstr = some s.fetchOpcode := by rw [hfetch, opcode_instrOf]
    have hraise := exec_of_raises (s := s.setPc s.fallThrough) hop (hraises.trans hr)
    rw [hexec, State.setPc_pc, fallThrough_eq_pc_add_length, BitVec.add_sub_cancel] at hraise
    exact .inl ⟨rfl, Host.Outcome.next.inj hraise⟩
  | false =>
    exact .inr ⟨rfl, (exec_fault_of_not_raises _ _ t hexec (hraises.trans hr)).trans hfault⟩

/-! ### What every step keeps -/

theorem legal_iff (s : State) :
    s.legal = true ↔ s.ram.wf ramSize = true ∧ s.cart.wf = true ∧ s.faultPrecise = true := by
  simp only [State.legal, Bool.and_eq_true, and_assoc]

theorem faultPrecise_of_no_fault {s : State} (h : s.fault = none) : s.faultPrecise = true := by
  simp [State.faultPrecise, h]

theorem faultPrecise_raiseIllegalOpcode {s : State} (h : raisesIllegal s.cfg s.fetchOpcode = true) :
    (s.raiseIllegalOpcode s.fetchOpcode s.pc).faultPrecise = true := by
  simp only [State.fetchOpcode] at h ⊢
  simp [State.faultPrecise, h]

theorem enterTrap_ram_wf {s : State} (ret : Addr) (hs : s.ram.wf ramSize = true) :
    (s.enterTrap ret).ram.wf ramSize = true := State.push_wf _ (State.pushAddr_wf ret hs)

/-- Every instruction writes RAM through the Bus alone, which keeps its canonical form. -/
theorem exec_ram_wf (i : Instr) (s : State) (hs : s.ram.wf ramSize = true) :
    ∀ t, exec i s = .next t → t.ram.wf ramSize = true := by
  cases i with
  | sta _ | stx _ | sty _ | inc _ | dec _ | pha | php | jsr _ => simp [busWrite_wf, hs]
  | brk =>
    rintro _ ⟨⟩
    exact enterTrap_ram_wf (s.pc + 1) hs
  | asl o | lsr o | rol o | ror o => cases o <;> simp [busWrite_wf, hs]
  | _ => simp [hs]

theorem step_cart {s t : State} (h : step s = .next t) : t.cart = s.cart :=
  exec_cart s.fetchInstr (s.setPc s.fallThrough) t (step_next h).2

theorem step_ram_wf {s t : State} (hs : s.ram.wf ramSize = true) (h : step s = .next t) : t.ram.wf ramSize = true :=
  exec_ram_wf s.fetchInstr (s.setPc s.fallThrough) hs t (step_next h).2

theorem step_faultPrecise {s t : State} (h : step s = .next t) : t.faultPrecise = true := by
  rcases step_raise_cases h with ⟨hraises, rfl⟩ | ⟨-, hfault⟩
  · exact faultPrecise_raiseIllegalOpcode hraises
  · exact faultPrecise_of_no_fault hfault

theorem step_legal {s t : State} (hs : s.legal = true) (h : step s = .next t) : t.legal = true := by
  obtain ⟨hram, hcart, -⟩ := (legal_iff s).mp hs
  exact (legal_iff t).mpr ⟨step_ram_wf hram h, step_cart h ▸ hcart, step_faultPrecise h⟩

theorem runSteps_succ {n : Nat} {s t : State} (h : runSteps (n + 1) s = some t) :
    ∃ u, step s = .next u ∧ runSteps n u = some t := by
  unfold runSteps at h
  split at h
  · exact ⟨_, ‹_›, h⟩
  · cases h
  · cases h

/-- What every step keeps holds after any number of steps. -/
theorem runSteps_keeps {P : State → Prop} (hstep : ∀ s t, P s → step s = .next t → P t) {n : Nat} {s t : State}
    (hs : P s) (hrun : runSteps n s = some t) : P t := by
  induction n generalizing s with
  | zero => exact Option.some.inj hrun ▸ hs
  | succ n ih =>
    obtain ⟨u, hu, hrest⟩ := runSteps_succ hrun
    exact ih (hstep s u hs hu) hrest

/-! ### A machine over a loaded image -/

theorem wf_ofBytes_slice (bytes : List Byte) (start n : Nat) :
    Memory.wf n (Memory.ofBytes 0 (slice bytes start n)) = true :=
  Memory.wfFrom_ofBytes _ (by simp [slice])

/-- A load that succeeds gives a cartridge in canonical form (70_reset_and_hazards.md R350 to R352). -/
theorem load_wf {bytes : List Byte} {cart : Cartridge} (h : Cartridge.load bytes = .ok cart) : cart.wf = true := by
  have hprg := (bytes.getD 4 0).isLt
  have hchr := (bytes.getD 5 0).isLt
  simp only [Cartridge.load] at h
  split_ifs at h with _ _ hbanks
  obtain rfl := Except.ok.inj h
  simp only [Cartridge.wf, Cartridge.prgLen, Cartridge.chrLen, wf_ofBytes_slice, Bool.and_eq_true, decide_eq_true_eq,
    and_true]
  omega

theorem construct_legal (cfg : Config) (r : ResetParams) {cart : Cartridge} (hcart : cart.wf = true)
    (hram : Memory.wf 2048 r.ramInit = true) : (State.construct cfg r cart).legal = true :=
  (legal_iff _).mpr ⟨hram, hcart, faultPrecise_of_no_fault rfl⟩

/-- Settles O21: a loaded cartridge is in canonical form, so the machine starts legal; every step keeps legality and the
cartridge, and the cartridge is all that the window shows. -/
theorem loadedMachineStaysLegalAndKeepsItsProgram : Obligations.LoadedMachineStaysLegalAndKeepsItsProgram := by
  intro bytes cart cfg r n t hload hram hrun
  have hlegal : t.legal = true :=
    runSteps_keeps (fun _ _ => step_legal) (construct_legal cfg r (load_wf hload) hram) hrun
  have hcart : t.cart = cart :=
    runSteps_keeps (P := fun u => u.cart = cart) (fun _ _ hu h => (step_cart h).trans hu) rfl hrun
  exact ⟨hlegal, hcart, fun w hw => State.read_cartridge ((isCartridge_iff w).mpr hw) hcart⟩

end Sys2Proof.Proofs
end

section
/-! PROOFS about the encoding (30_encoding.md): the decoder, which reads the Opcode Table, and the encoder, written from
the **Encoding** parts of the instruction rules, undo each other. -/

namespace Sys2Proof.Proofs

open Sys2Proof Sys2Proof.Laws Sys2Proof.Claims

/-! ### From bytes to an instruction and back -/

/-- The decoder's instruction has an encoding, whatever its operand bytes (30_encoding.md R110). -/
theorem wellFormed_instrOf (op b1 b2 : Byte) : (instrOf op b1 b2).wellFormed = true := by
  have htable : ∀ op : Byte, (instrOf op 0 0).wellFormed = true := by decide
  rw [apply_instrOf Instr.wellFormed op b1 b2 (fun m mode => by cases m <;> cases mode <;> rfl)
    (fun mode => by cases mode <;> rfl), htable]

theorem encode_instrOf (op b1 b2 : Byte) :
    encode (instrOf op b1 b2) = op :: [b1, b2].take (operandCount op) := by
  rw [encode, opcode_instrOf, operandBytes_instrOf]

/-- Settles O2: whichever number of operand bytes the decoder took, they are the ones the encoder writes. -/
theorem encodeOfDecodeIsTheBytes : Obligations.EncodeOfDecodeIsTheBytes := by
  intro bs rest i h
  obtain ⟨op, hn, rfl, rfl⟩ | ⟨op, b1, hn, rfl, rfl⟩ | ⟨op, b1, b2, hn, rfl, rfl⟩ := decode_ok h <;>
    exact ⟨wellFormed_instrOf _ _ _, by rw [encode_instrOf, hn]; rfl⟩

/-! ### From an instruction to bytes and back -/

/-- The decoder takes exactly as many operand bytes as the table gives the opcode byte. -/
theorem decode_of_length_eq {op : Byte} {operand : List Byte} (h : operand.length = operandCount op)
    (rest : List Byte) :
    decode (op :: operand ++ rest) = .ok (instrOf op (operand.getD 0 0) (operand.getD 1 0), rest) := by
  have hle := operandCount_le_two op
  match operand with
  | [] => simp [decode, ← h]
  | [b1] => simp [decode, ← h]
  | [b1, b2] => simp [decode, ← h]
  | _ :: _ :: _ :: _ => simp only [List.length_cons] at h; omega

/-- The encoder's opcode byte and operand bytes are ones the Opcode Table turns into the instruction again (a missing
operand byte is passed as 0, and not used). -/
def Reassembles (i : Instr) : Prop :=
  ∃ op, opcode i = some op ∧ instrOf op ((operandBytes i).getD 0 0) ((operandBytes i).getD 1 0) = i

/-- A documented form, by the table row of its opcode byte. -/
theorem reassembles_of_documented {i : Instr} {op : Byte} {m : Mnemonic} {mode : Mode} {cycles : Nat} {cross : Bool}
    (hop : opcode i = some op) (hrow : entryAt op = .documented m mode cycles cross)
    (hi : documentedInstr m mode ((operandBytes i).getD 0 0) ((operandBytes i).getD 1 0) = some i) :
    Reassembles i :=
  ⟨op, hop, by rw [instrOf, hrow]; simp only [hi, Option.getD_some]⟩

/-- An undocumented NOP, by the table row of its opcode byte. -/
theorem reassembles_of_undocumented {i : Instr} {op : Byte} {mode : Mode} {cycles : Nat} {cross : Bool}
    (hop : opcode i = some op) (hrow : entryAt op = .undocumentedNop mode cycles cross)
    (hi : undocumentedInstr mode op ((operandBytes i).getD 0 0) ((operandBytes i).getD 1 0) = some i) :
    Reassembles i :=
  ⟨op, hop, by rw [instrOf, hrow]; simp only [hi, Option.getD_some]⟩

/-- The table rows of the bytes an instruction carries (30_encoding.md R108, R109). -/
theorem entryAt_of_mem :
    (∀ op ∈ nopImpBytes, entryAt op = .undocumentedNop .implicit 2 false) ∧
    (∀ op ∈ nopImmBytes, entryAt op = .undocumentedNop .immediate 2 false) ∧
    (∀ op ∈ nopZpBytes, entryAt op = .undocumentedNop .zeroPage 3 false) ∧
    (∀ op ∈ nopZpXBytes, entryAt op = .undocumentedNop .zeroPageX 4 false) ∧
    (∀ op ∈ nopAbsXBytes, entryAt op = .undocumentedNop .absoluteX 4 true) ∧
    (∀ op ∈ illegalBytes, entryAt op = .illegal) := by
  decide

theorem reassembles_of_wellFormed {i : Instr} (h : i.wellFormed = true) : Reassembles i := by
  obtain ⟨himp, himm, hzp, hzpX, habsX, hillegal⟩ := entryAt_of_mem
  cases i with
  | lda o | ldx o | ldy o | adc o | sbc o | and o | ora o | eor o | cmp o | cpx o | cpy o =>
    rcases o with _ | (_ | _ | _ | _ | _ | _ | _ | _) <;> cases h <;>
      exact reassembles_of_documented rfl rfl
        (by simp [documentedInstr, readOperand, memOperand, operandBytes, ReadOperand.bytes, MemOperand.bytes])
  | sta m | stx m | sty m | bit m | inc m | dec m =>
    cases m <;> cases h <;>
      exact reassembles_of_documented rfl rfl (by simp [documentedInstr, memOperand, operandBytes, MemOperand.bytes])
  | asl o | lsr o | rol o | ror o =>
    rcases o with _ | (_ | _ | _ | _ | _ | _ | _ | _) <;> cases h <;>
      exact reassembles_of_documented rfl rfl
        (by simp [documentedInstr, shiftOperand, memOperand, operandBytes, ShiftOperand.bytes, MemOperand.bytes])
  | jmp t =>
    cases t <;> exact reassembles_of_documented rfl rfl
      (by simp [documentedInstr, jumpOperand, operandBytes, JumpOperand.bytes])
  | jsr w => exact reassembles_of_documented rfl rfl (by simp [documentedInstr, operandBytes])
  | nopImp op =>
    exact reassembles_of_undocumented (if_pos h) (himp op ((contains_iff_mem _ _).mp h)) rfl
  | nopImm op v =>
    exact reassembles_of_undocumented (if_pos h) (himm op ((contains_iff_mem _ _).mp h)) rfl
  | nopZp op z =>
    exact reassembles_of_undocumented (if_pos h) (hzp op ((contains_iff_mem _ _).mp h)) rfl
  | nopZpX op z =>
    exact reassembles_of_undocumented (if_pos h) (hzpX op ((contains_iff_mem _ _).mp h)) rfl
  | nopAbs w => exact reassembles_of_undocumented rfl rfl (by simp [undocumentedInstr, operandBytes])
  | nopAbsX op w =>
    exact reassembles_of_undocumented (if_pos h) (habsX op ((contains_iff_mem _ _).mp h))
      (by simp [undocumentedInstr, operandBytes])
  | illegal op =>
    exact ⟨op, if_pos h, by rw [instrOf, hillegal op ((contains_iff_mem _ _).mp h)]⟩
  | _ => exact reassembles_of_documented rfl rfl rfl

/-- Settles O1: the table counts the operand bytes of the instruction it assembles, so the decoder takes exactly the
encoder's operand bytes and assembles the instruction from them. -/
theorem decodeOfEncodeIsTheInstruction : Obligations.DecodeOfEncodeIsTheInstruction := by
  intro i rest h
  obtain ⟨op, hop, hi⟩ := reassembles_of_wellFormed h
  have hlength : (operandBytes i).length = operandCount op := by
    have hcount := operandCount_le_two op
    rw [← hi, operandBytes_instrOf, List.length_take]
    exact Nat.min_eq_left hcount
  rw [encode, hop, decode_of_length_eq hlength, hi]

end Sys2Proof.Proofs
end

section
/-! PROOFS about the step and the addressing modes (40_step_and_addressing.md): the step runs the instruction its bytes
decode to, and the effective addresses and branch targets as numbers. -/

namespace Sys2Proof.Proofs

open Sys2Proof Sys2Proof.Machine Sys2Proof.Laws Sys2Proof.Claims

/-! ### The step -/

/-- The fetch, which reads only the operand bytes the opcode has, gives the instruction the decoder finds in the three
bytes at PC. -/
theorem decode_bytes_at_pc (s : State) :
    ∃ rest, decode [s.read s.pc, s.read (s.pc + 1), s.read (s.pc + 2)] = .ok (s.fetchInstr, rest) := by
  unfold State.fetchInstr State.fetchOpcode
  obtain ⟨hn, hdec⟩ | ⟨hn, hdec⟩ | ⟨hn, hdec⟩ :=
    decode_three (s.read s.pc) (s.read (s.pc + 1)) (s.read (s.pc + 2)) [] <;>
    exact ⟨_, by rw [hn]; exact hdec⟩

/-- Settles O5: the decoded instruction is the fetched one, and its length leads to the fall-through address. -/
theorem stepRunsTheDecodedInstruction : Obligations.StepRunsTheDecodedInstruction := by
  intro s i rest hfault hdecode
  obtain ⟨rest', hfetch⟩ := decode_bytes_at_pc s
  obtain ⟨rfl, -⟩ : s.fetchInstr = i ∧ rest' = rest := Prod.mk.inj (Except.ok.inj (hfetch.symm.trans hdecode))
  rw [step_of_running hfault, fallThrough_eq_pc_add_length]

/-- Settles O6: no instruction's meaning stops. -/
theorem everyRunningStepCompletes : Obligations.EveryRunningStepCompletes := by
  intro s hfault
  refine ⟨⟨s.fetchInstr, decode_bytes_at_pc s⟩, ?_⟩
  rw [step_of_running hfault]
  exact exec_next (s.setPc s.fallThrough) s.fetchInstr

/-! ### Effective addresses -/

/-- Indexed zero page: the sum wraps within the zero page. -/
theorem zext16_add_toNat (z r : Byte) : (zext16 (z + r)).toNat = (z.toNat + r.toNat) % 256 := by
  rw [zext16_toNat, BitVec.toNat_add]

/-- Indexed absolute: the sum wraps modulo 65536. -/
theorem add_zext16_toNat (w : Addr) (r : Byte) : (w + zext16 r).toNat = (w.toNat + r.toNat) % 65536 := by
  rw [BitVec.toNat_add, zext16_toNat]

theorem zpRead16_toNat (s : State) (z : Byte) :
    (s.zpRead16 z).toNat = (s.read (word 0 (z + 1))).toNat * 256 + (s.read (word 0 z)).toNat := by
  rw [State.zpRead16, word_toNat, word_zero, word_zero]

/-- Settles O26, mode by mode. -/
theorem effectiveAddressesWrapAsTheModesSay : Obligations.EffectiveAddressesWrapAsTheModesSay :=
  fun s z w => ⟨zext16_toNat z, zext16_add_toNat z s.x, zext16_add_toNat z s.y, rfl, add_zext16_toNat w s.x,
    add_zext16_toNat w s.y, zpRead16_toNat s (z + s.x)⟩

/-! ### Branch targets -/

/-- The two's complement of an offset: adding 0xFF00 to a negative one's byte is adding 65536 to its value. -/
theorem sext16_toNat (v : Byte) : ((sext16 v).toNat : Int) = v.toInt % 65536 := by
  have hlt := v.isLt
  rw [sext16, BitVec.toInt_eq_msb_cond]
  split
  case isTrue hneg =>
    have hge : 128 ≤ v.toNat := by simpa [BitVec.msb_eq_decide] using hneg
    have hadd : (zext16 v + 0xFF00).toNat = v.toNat + 0xFF00 := by
      rw [BitVec.toNat_add, zext16_toNat]
      exact Nat.mod_eq_of_lt (show v.toNat + 0xFF00 < 2 ^ 16 by omega)
    omega
  case isFalse => rw [zext16_toNat]; omega

/-- Settles O28: sign extension keeps the offset's value modulo 65536. -/
theorem branchTargetAddsTheSignedOffset : Obligations.BranchTargetAddsTheSignedOffset := by
  intro fall off
  calc ((branchTarget fall off).toNat : Int)
      = ((fall.toNat : Int) + (sext16 off).toNat) % 65536 := by
        rw [branchTarget, BitVec.toNat_add, Int.natCast_mod, Int.natCast_add]; rfl
    _ = ((fall.toNat : Int) + off.toInt) % 65536 := by rw [sext16_toNat, Int.add_emod_emod]

end Sys2Proof.Proofs
end

section
/-! PROOFS about loads, stores and transfers (41_load_store_transfer.md): a form of the **Encoding** part is the row the
Opcode Table has for its byte, and the whole next state of each instruction. -/

namespace Sys2Proof.Proofs

open Sys2Proof Sys2Proof.Machine Sys2Proof.Laws Sys2Proof.Claims

/-! ### Forms and flags -/

/-- An instruction that takes no branch cycles has the form its table row gives: the row's base cycles and page-cross
penalty (30_encoding.md R104, 70_reset_and_hazards.md R360). -/
theorem hasForm_of_row {i : Instr} {op : Byte} {m : Mnemonic} {mode : Mode} {base : Nat} {penalty : Bool}
    {operand : List Byte} {cross : State → Bool} (hwf : i.wellFormed = true) (hop : opcode i = some op)
    (hrow : entryAt op = .documented m mode base penalty) (hoperand : operandBytes i = operand)
    (hcross : instrCrossed i = cross) (hbranch : ∀ s, instrBranchCycles i s = 0) :
    HasForm i operand cross (some ⟨op, base, penalty⟩) := by
  have hbase : baseCycles op = some base := by simp only [baseCycles, hrow]
  have hpenalty : pageCrossPenalty op = penalty := by simp only [pageCrossPenalty, hrow]
  refine ⟨hwf, ?_, fun s => ?_⟩
  · simp only [encode, hop, hoperand]
  · simp only [cycles, hop, hbase, hpenalty, hcross, hbranch, Nat.add_zero]

/-- `setNZ` puts into P what the claims call `nz` (00_scope.md R13). -/
theorem setNZ_eq_nz (s : State) (v : Byte) : s.setNZ v = { s with p := nz s.p v } := rfl

/-! ### Loads -/

theorem hasForm_lda : ∀ o : ReadOperand,
    HasForm (.lda o) o.bytes (readCrossed o) (accForms 0xA9 0xA5 0xB5 0xAD 0xBD 0xB9 0xA1 0xB1 o)
  | .mem (.zpY _) => rfl
  | .imm _ | .mem (.zp _) | .mem (.zpX _) | .mem (.abs _) | .mem (.absX _) | .mem (.absY _) | .mem (.indX _)
  | .mem (.indY _) => hasForm_of_row rfl rfl rfl rfl rfl fun _ => rfl

theorem hasForm_ldx : ∀ o : ReadOperand, HasForm (.ldx o) o.bytes (readCrossed o) (ldxForms o)
  | .mem (.zpX _) | .mem (.absX _) | .mem (.indX _) | .mem (.indY _) => rfl
  | .imm _ | .mem (.zp _) | .mem (.zpY _) | .mem (.abs _) | .mem (.absY _) =>
    hasForm_of_row rfl rfl rfl rfl rfl fun _ => rfl

theorem hasForm_ldy : ∀ o : ReadOperand, HasForm (.ldy o) o.bytes (readCrossed o) (ldyForms o)
  | .mem (.zpY _) | .mem (.absY _) | .mem (.indX _) | .mem (.indY _) => rfl
  | .imm _ | .mem (.zp _) | .mem (.zpX _) | .mem (.abs _) | .mem (.absX _) =>
    hasForm_of_row rfl rfl rfl rfl rfl fun _ => rfl

/-- Settles O29: the forms operand by operand; the next state sets the register and then N and Z. -/
theorem loadsCopyTheOperandAndSetNZ : Obligations.LoadsCopyTheOperandAndSetNZ := by
  refine fun o => ⟨hasForm_lda o, hasForm_ldx o, hasForm_ldy o, fun s => ?_⟩
  simp only [exec_lda, exec_ldx, exec_ldy, setNZ_eq_nz]
  exact ⟨rfl, rfl, rfl⟩

/-! ### Stores -/

theorem hasForm_sta : ∀ m : MemOperand, HasForm (.sta m) m.bytes (crossed m) (staForms m)
  | .zpY _ => rfl
  | .zp _ | .zpX _ | .abs _ | .absX _ | .absY _ | .indX _ | .indY _ =>
    hasForm_of_row rfl rfl rfl rfl rfl fun _ => rfl

theorem hasForm_stx : ∀ m : MemOperand, HasForm (.stx m) m.bytes (crossed m) (stxForms m)
  | .zpX _ | .absX _ | .absY _ | .indX _ | .indY _ => rfl
  | .zp _ | .zpY _ | .abs _ => hasForm_of_row rfl rfl rfl rfl rfl fun _ => rfl

theorem hasForm_sty : ∀ m : MemOperand, HasForm (.sty m) m.bytes (crossed m) (styForms m)
  | .zpY _ | .absX _ | .absY _ | .indX _ | .indY _ => rfl
  | .zp _ | .zpX _ | .abs _ => hasForm_of_row rfl rfl rfl rfl rfl fun _ => rfl

/-- Settles O30: the forms operand by operand; each meaning is one bus write at the effective address. -/
theorem storesWriteTheRegisterAtTheEffectiveAddress : Obligations.StoresWriteTheRegisterAtTheEffectiveAddress :=
  fun m => ⟨hasForm_sta m, hasForm_stx m, hasForm_sty m, fun s => ⟨exec_sta s m, exec_stx s m, exec_sty s m⟩⟩

/-! ### Transfers -/

/-- A one-byte instruction that never crosses a page and never branches costs its table row's cycles. -/
theorem implied_of_row {i : Instr} {op : Byte} {m : Mnemonic} {base : Nat} (hwf : i.wellFormed = true)
    (hop : opcode i = some op) (hrow : entryAt op = .documented m .implicit base false) (hoperand : operandBytes i = [])
    (hcross : instrCrossed i = fun _ => false) (hbranch : ∀ s, instrBranchCycles i s = 0) : Implied i op base :=
  hasForm_of_row hwf hop hrow hoperand hcross hbranch

theorem transfers_implied :
    Implied .tax 0xAA 2 ∧ Implied .tay 0xA8 2 ∧ Implied .txa 0x8A 2 ∧
    Implied .tya 0x98 2 ∧ Implied .tsx 0xBA 2 ∧ Implied .txs 0x9A 2 := by
  refine ⟨?_, ?_, ?_, ?_, ?_, ?_⟩ <;> exact implied_of_row rfl rfl rfl rfl rfl fun _ => rfl

/-- Settles O31: all transfers but TXS set the register and then N and Z; TXS sets SP alone. -/
theorem transfersCopyTheRegister : Obligations.TransfersCopyTheRegister := by
  refine ⟨transfers_implied, fun s => ?_⟩
  simp only [exec_tax, exec_tay, exec_txa, exec_tya, exec_tsx, setNZ_eq_nz]
  exact ⟨rfl, rfl, rfl, rfl, rfl, exec_txs s⟩

end Sys2Proof.Proofs
end

section
/-! PROOFS about arithmetic, logic, comparison, increment and decrement (43_arith_logic.md): binary addition and
subtraction as range tests on signed and unsigned values, the decimal algorithms nibble by nibble, and the whole next
state of each instruction. -/

namespace Sys2Proof.Proofs

open Sys2Proof Sys2Proof.Machine Sys2Proof.Claims

/-! ### Forms -/

/-- The operand forms that ADC, SBC, AND, ORA, EOR and CMP share: all but ZeroPageY, each by the row of its byte. -/
theorem hasForm_accumulator : ∀ o : ReadOperand,
    HasForm (.adc o) o.bytes (readCrossed o) (accForms 0x69 0x65 0x75 0x6D 0x7D 0x79 0x61 0x71 o) ∧
    HasForm (.sbc o) o.bytes (readCrossed o) (accForms 0xE9 0xE5 0xF5 0xED 0xFD 0xF9 0xE1 0xF1 o) ∧
    HasForm (.and o) o.bytes (readCrossed o) (accForms 0x29 0x25 0x35 0x2D 0x3D 0x39 0x21 0x31 o) ∧
    HasForm (.ora o) o.bytes (readCrossed o) (accForms 0x09 0x05 0x15 0x0D 0x1D 0x19 0x01 0x11 o) ∧
    HasForm (.eor o) o.bytes (readCrossed o) (accForms 0x49 0x45 0x55 0x4D 0x5D 0x59 0x41 0x51 o) ∧
    HasForm (.cmp o) o.bytes (readCrossed o) (accForms 0xC9 0xC5 0xD5 0xCD 0xDD 0xD9 0xC1 0xD1 o)
  | .mem (.zpY _) => ⟨rfl, rfl, rfl, rfl, rfl, rfl⟩
  | .imm _ | .mem (.zp _) | .mem (.zpX _) | .mem (.abs _) | .mem (.absX _) | .mem (.absY _) | .mem (.indX _)
  | .mem (.indY _) => by
    refine ⟨?_, ?_, ?_, ?_, ?_, ?_⟩ <;> exact hasForm_of_row rfl rfl rfl rfl rfl fun _ => rfl

theorem hasForm_indexCompare : ∀ o : ReadOperand,
    HasForm (.cpx o) o.bytes (readCrossed o) (indexCompareForms 0xE0 0xE4 0xEC o) ∧
    HasForm (.cpy o) o.bytes (readCrossed o) (indexCompareForms 0xC0 0xC4 0xCC o)
  | .mem (.zpX _) | .mem (.zpY _) | .mem (.absX _) | .mem (.absY _) | .mem (.indX _) | .mem (.indY _) => ⟨rfl, rfl⟩
  | .imm _ | .mem (.zp _) | .mem (.abs _) => by
    constructor <;> exact hasForm_of_row rfl rfl rfl rfl rfl fun _ => rfl

theorem hasForm_bit : ∀ m : MemOperand, HasForm (.bit m) m.bytes (crossed m) (bitForms m)
  | .zpX _ | .zpY _ | .absX _ | .absY _ | .indX _ | .indY _ => rfl
  | .zp _ | .abs _ => hasForm_of_row rfl rfl rfl rfl rfl fun _ => rfl

theorem hasForm_incDec : ∀ m : MemOperand,
    HasForm (.inc m) m.bytes (crossed m) (rmwForms 0xE6 0xEE 0xF6 0xFE m) ∧
    HasForm (.dec m) m.bytes (crossed m) (rmwForms 0xC6 0xCE 0xD6 0xDE m)
  | .zpY _ | .absY _ | .indX _ | .indY _ => ⟨rfl, rfl⟩
  | .zp _ | .zpX _ | .abs _ | .absX _ => by
    constructor <;> exact hasForm_of_row rfl rfl rfl rfl rfl fun _ => rfl

theorem indexSteps_implied :
    Implied .inx 0xE8 2 ∧ Implied .iny 0xC8 2 ∧ Implied .dex 0xCA 2 ∧ Implied .dey 0x88 2 := by
  refine ⟨?_, ?_, ?_, ?_⟩ <;> exact implied_of_row rfl rfl rfl rfl rfl fun _ => rfl

/-! ### Logic, BIT and comparison -/

theorem writeLogic_eq_nz (s : State) (r : Byte) : s.writeLogic r = { s with a := r, p := nz s.p r } := rfl

/-- Settles O40: the forms operand by operand; the next state sets A and then N and Z. -/
theorem logicalsCombineWithTheAccumulator : Obligations.LogicalsCombineWithTheAccumulator := by
  intro o
  obtain ⟨-, -, hand, hora, heor, -⟩ := hasForm_accumulator o
  refine ⟨hand, hora, heor, fun s => ?_⟩
  simp only [exec_and, exec_ora, exec_eor, writeLogic_eq_nz, and_self]

/-- Settles O41: the forms operand by operand; the meaning replaces P alone. -/
theorem bitTestsTheOperand : Obligations.BitTestsTheOperand :=
  fun m => ⟨hasForm_bit m, fun s => exec_bit s m⟩

/-- The difference is zero exactly when the register equals the operand. -/
theorem compare_eq (p : Status) (r m : Byte) : p.compare r m =
    { p with c := decide (r.toNat ≥ m.toNat), z := decide (r = m), n := (r - m).getLsbD 7 } := by
  have hzero : (r - m == 0) = decide (r = m) := decide_eq_decide.mpr sub_eq_zero
  simp only [Status.compare, Status.withNZ, hzero, ge_iff_le]

/-- Settles O42: one comparison of three registers. -/
theorem comparesSetCarryZeroAndNegative : Obligations.ComparesSetCarryZeroAndNegative := by
  intro o
  obtain ⟨-, -, -, -, -, hcmp⟩ := hasForm_accumulator o
  obtain ⟨hcpx, hcpy⟩ := hasForm_indexCompare o
  refine ⟨hcmp, hcpx, hcpy, ?_⟩
  rintro s _ rfl
  simp only [exec_cmp, exec_cpx, exec_cpy, compare_eq]
  exact ⟨rfl, rfl, rfl⟩

/-! ### Increments and decrements -/

theorem writeBack_eq_nz (s : State) (w : Addr) (r : Byte) :
    s.writeBack w r = { s.write w r with p := nz s.p r } := rfl

/-- Settles O43: one bus write, whose success N and Z do not depend on. -/
theorem incAndDecWriteBackOneByte : Obligations.IncAndDecWriteBackOneByte := by
  intro m
  obtain ⟨hinc, hdec⟩ := hasForm_incDec m
  refine ⟨hinc, hdec, ?_⟩
  rintro s _ rfl
  simp only [exec_inc, exec_dec, writeBack_eq_nz, memValue, and_self]

/-- Settles O44: each step sets its register and then N and Z. -/
theorem indexStepsWrapAndSetNZ : Obligations.IndexStepsWrapAndSetNZ := by
  refine ⟨indexSteps_implied, fun s => ?_⟩
  simp only [exec_inx, exec_iny, exec_dex, exec_dey, setNZ_eq_nz]
  exact ⟨rfl, rfl, rfl, rfl⟩

/-! ### Binary addition -/

theorem adcResult_of_binary {s : State} (h : decimal s = false) (m : Byte) :
    adcResult s.cfg s.p s.a m = addBinary s.a m s.p.c :=
  if_neg (Bool.eq_false_iff.mp h)

/-- Settles O35: outside decimal mode ADC is the binary sum, and the rule's formulas are its definition. -/
theorem adcAddsWithCarry : Obligations.AdcAddsWithCarry := by
  intro o
  refine ⟨(hasForm_accumulator o).1, ?_⟩
  rintro s _ _ _ hbinary rfl rfl rfl
  rw [exec_adc, adcResult_of_binary hbinary]
  rfl

theorem msb_iff_128_le (v : Byte) : v.msb = true ↔ 128 ≤ v.toNat := by
  rw [BitVec.msb_eq_decide, decide_eq_true_iff]

theorem signBit_eq_msb (v : Byte) : (v &&& 0x80 != 0) = v.msb := by
  revert v
  decide

/-- The overflow formula: with operands of different signs the signed sum stays in range, and its sign bit is neither
operand's only when it left the range. -/
theorem overflowFormula_eq_rangeTest (a m : Byte) (c : Bool) {r : Byte}
    (hr : r = BitVec.ofNat 8 (a.toNat + m.toNat + c.toNat)) :
    ((a ^^^ r) &&& (m ^^^ r) &&& 0x80 != 0) =
      decide (a.toInt + m.toInt + c.toNat < -128 ∨ 127 < a.toInt + m.toInt + c.toNat) := by
  have ha := a.isLt
  have hm := m.isLt
  have hc := c.toNat_le
  have hsum : r.toNat = (a.toNat + m.toNat + c.toNat) % 256 := by rw [hr, BitVec.toNat_ofNat]
  have hsigns : ((a ^^^ r) &&& (m ^^^ r)).msb = true ↔
      ¬ (128 ≤ a.toNat ↔ 128 ≤ r.toNat) ∧ ¬ (128 ≤ m.toNat ↔ 128 ≤ r.toNat) := by
    simp only [BitVec.msb_and, BitVec.msb_xor, Bool.and_eq_true, bne_iff_ne, ne_eq,
      ← msb_iff_128_le, ← Bool.eq_iff_iff]
  rw [signBit_eq_msb, Bool.eq_iff_iff, hsigns, decide_eq_true_iff, BitVec.toInt_eq_toNat_cond,
    BitVec.toInt_eq_toNat_cond]
  omega

/-- Settles O36: the three results of R200 read as range tests. -/
theorem adcFlagsAreTheRangeTests : Obligations.AdcFlagsAreTheRangeTests := by
  intro o s hbinary
  refine ⟨_, (adcAddsWithCarry o).2 s _ _ _ hbinary rfl rfl rfl, BitVec.toNat_ofNat _ _, decide_eq_true_iff, ?_⟩
  rw [overflowFormula_eq_rangeTest s.a (readValue o s) s.p.c rfl, decide_eq_true_iff]

/-! ### Binary subtraction -/

theorem sbcResult_of_binary {s : State} (h : decimal s = false) (m : Byte) :
    sbcResult s.cfg s.p s.a m = addBinary s.a (m ^^^ 0xFF) s.p.c :=
  if_neg (Bool.eq_false_iff.mp h)

theorem xor_ff_eq_not (m : Byte) : m ^^^ 0xFF = ~~~m := BitVec.xor_allOnes

theorem toInt_complement (m : Byte) : (~~~m).toInt = -m.toInt - 1 := by
  have hm := m.isLt
  rw [BitVec.toInt_eq_toNat_cond, BitVec.toInt_eq_toNat_cond, BitVec.toNat_not]
  omega

/-- Adding the complement and the carry is subtracting the operand and the borrow, modulo 256. -/
theorem add_complement_eq_sub (a m : Byte) (c : Bool) :
    BitVec.ofNat 8 (a.toNat + (m ^^^ 0xFF).toNat + c.toNat) =
      BitVec.ofInt 8 ((a.toNat : Int) - m.toNat - (1 - c.toNat : Nat)) := by
  have hm := m.isLt
  have hc := c.toNat_le
  apply BitVec.eq_of_toNat_eq
  rw [xor_ff_eq_not, BitVec.toNat_not, BitVec.toNat_ofNat, BitVec.toNat_ofInt]
  omega

/-- The binary subtraction as the claims describe it: its result, and its flags as range tests. -/
theorem addBinary_complement (s : State) (m : Byte) {r : Byte} {b : Nat} (hb : b = 1 - s.p.c.toNat)
    (hr : r = BitVec.ofInt 8 ((s.a.toNat : Int) - m.toNat - b)) :
    (addBinary s.a (m ^^^ 0xFF) s.p.c).result = r ∧
      s.p.withNVZC (addBinary s.a (m ^^^ 0xFF) s.p.c) = sbcFlags s m r b := by
  have hm := m.isLt
  have hc := s.p.c.toNat_le
  have hsum : BitVec.ofNat 8 (s.a.toNat + (m ^^^ 0xFF).toNat + s.p.c.toNat) = r := by
    rw [add_complement_eq_sub, hr, hb]
  have hsigned : s.a.toInt + (m ^^^ 0xFF).toInt + s.p.c.toNat = s.a.toInt - m.toInt - b := by
    rw [xor_ff_eq_not, toInt_complement, hb]
    omega
  have hcarry : 0xFF < s.a.toNat + (m ^^^ 0xFF).toNat + s.p.c.toNat ↔ m.toNat + b ≤ s.a.toNat := by
    rw [xor_ff_eq_not, BitVec.toNat_not, hb]
    omega
  have hoverflow := overflowFormula_eq_rangeTest s.a (m ^^^ 0xFF) s.p.c hsum.symm
  rw [hsigned] at hoverflow
  refine ⟨hsum, ?_⟩
  simp only [Status.withNVZC, addBinary, hsum, hoverflow, gt_iff_lt, hcarry]
  rfl

/-- Settles O37: the difference and its flags are those of the sum with the complement. -/
theorem sbcSubtractsWithBorrow : Obligations.SbcSubtractsWithBorrow := by
  intro o
  refine ⟨(hasForm_accumulator o).2.1, ?_⟩
  rintro s _ r b hbinary rfl hb hr
  obtain ⟨hresult, hflags⟩ := addBinary_complement s (readValue o s) hb hr
  rw [exec_sbc, sbcResult_of_binary hbinary, ← hflags, ← hresult]
  rfl

/-! ### The decimal algorithms -/

theorem adcResult_of_decimal {s : State} (h : decimal s = true) (m : Byte) :
    adcResult s.cfg s.p s.a m = addDecimal s.a m s.p.c := if_pos h

theorem sbcResult_of_decimal {s : State} (h : decimal s = true) (m : Byte) :
    sbcResult s.cfg s.p s.a m = subDecimal s.a m s.p.c := if_pos h

theorem toNat_and_0F (v : Byte) : (v &&& 0x0F).toNat = v.toNat % 16 := by
  revert v
  decide

theorem toNat_and_F0 (v : Byte) : (v &&& 0xF0).toNat = v.toNat / 16 * 16 := by
  revert v
  decide

/-- R202 takes the borrow away as one addition of C and one subtraction of 1. -/
theorem subDecimalValue_eq (a m : Byte) (c : Bool) {b : Nat} {l lo t u : Int} (hb : b = 1 - c.toNat)
    (hl : l = ((a.toNat % 16 : Nat) : Int) - (m.toNat % 16 : Nat) - b)
    (hlo : lo = if l < 0 then (l - 6) % 16 - 16 else l)
    (ht : t = ((a.toNat / 16 * 16 : Nat) : Int) - (m.toNat / 16 * 16 : Nat) + lo)
    (hu : u = if t < 0 then t - 96 else t) : subDecimalValue a m c = BitVec.ofInt 8 u := by
  have hc := c.toNat_le
  have hborrow : ((a.toNat % 16 : Nat) : Int) - (m.toNat % 16 : Nat) + c.toNat - 1 = l := by omega
  simp only [subDecimalValue, toNat_and_0F, toNat_and_F0, hborrow]
  rw [hu, ht, hlo]

theorem ofNat_beq_zero (n : Nat) : (BitVec.ofNat 8 n == 0) = decide (n % 256 = 0) :=
  decide_eq_decide.mpr (by rw [← BitVec.toNat_inj, BitVec.toNat_ofNat]; rfl)

/-- Settles O38: ADC nibble by nibble as R201 writes it; SBC stores the value of R202 with the flags of the binary
subtraction. -/
theorem decimalModeFollowsTheNmosAlgorithm : Obligations.DecimalModeFollowsTheNmosAlgorithm := by
  constructor
  · rintro o s _ _ _ _ _ _ hdecimal rfl rfl rfl rfl rfl rfl
    rw [exec_adc, adcResult_of_decimal hdecimal]
    simp only [State.writeAlu, addDecimal, toNat_and_0F, toNat_and_F0, signed8_eq_toInt, ofNat_beq_zero, Bool.decide_or]
    rfl
  · rintro o s _ r b l lo t u hdecimal rfl hb hr hl hlo ht hu
    obtain ⟨-, hflags⟩ := addBinary_complement s (readValue o s) hb hr
    rw [exec_sbc, sbcResult_of_decimal hdecimal, ← hflags, ← subDecimalValue_eq _ _ _ hb hl hlo ht hu]
    rfl

/-! ### Decimal digits -/

/-- The correction of the low nibble of a sum of two digits and a carry: the decimal carry above the decimal digit. -/
theorem correctedLow_add {l : Nat} (h : l ≤ 19) :
    (if 10 ≤ l then (l + 6) % 16 + 16 else l) = l / 10 * 16 + l % 10 := by
  split <;> omega

/-- The correction of the high nibble, `d` the digit below it. -/
theorem correctedHigh_add {n d : Nat} (hn : n ≤ 19) (hd : d ≤ 9) :
    (if 160 ≤ n * 16 + d then n * 16 + d + 96 else n * 16 + d) = n / 10 * 256 + n % 10 * 16 + d := by
  split <;> omega

/-- The same for a difference, a borrow being a carry of -1. -/
theorem correctedLow_sub {l : Int} (hlow : -10 ≤ l) (hhigh : l ≤ 9) :
    (if l < 0 then (l - 6) % 16 - 16 else l) = l / 10 * 16 + l % 10 := by
  split <;> omega

theorem correctedHigh_sub {n d : Int} (hlow : -10 ≤ n) (hhigh : n ≤ 9) (hd0 : 0 ≤ d) (hd : d ≤ 9) :
    (if n * 16 + d < 0 then n * 16 + d - 96 else n * 16 + d) = n / 10 * 256 + n % 10 * 16 + d := by
  split <;> omega

/-- Two digits side by side. -/
theorem isBcd_of_digits {v : Byte} {h l : Nat} (hv : v.toNat = h * 16 + l) (hh : h ≤ 9) (hl : l ≤ 9) :
    isBcd v ∧ bcdValue v = h * 10 + l := by
  unfold isBcd bcdValue
  omega

/-- ADC adds the digits of a column and the carry into it; what the corrections make of the two columns is the decimal
sum's two digits below its carry. -/
theorem adc_exact_on_digits (o : ReadOperand) (s : State) (hdecimal : decimal s = true) (ha : isBcd s.a)
    (hm : isBcd (readValue o s)) : ∃ t, exec (.adc o) s = .next t ∧ isBcd t.a ∧
      bcdValue t.a = (bcdValue s.a + bcdValue (readValue o s) + s.p.c.toNat) % 100 ∧
      (t.p.c = true ↔ 100 ≤ bcdValue s.a + bcdValue (readValue o s) + s.p.c.toNat) := by
  obtain ⟨hal, hah⟩ := ha
  obtain ⟨hml, hmh⟩ := hm
  have hc := s.p.c.toNat_le
  obtain ⟨l, hl⟩ : ∃ l, l = s.a.toNat % 16 + (readValue o s).toNat % 16 + s.p.c.toNat := ⟨_, rfl⟩
  obtain ⟨n, hn⟩ : ∃ n, n = s.a.toNat / 16 + (readValue o s).toNat / 16 + l / 10 := ⟨_, rfl⟩
  have hsum : bcdValue s.a + bcdValue (readValue o s) + s.p.c.toNat = n * 10 + l % 10 := by
    unfold bcdValue
    omega
  have hbefore : n * 16 + l % 10 = s.a.toNat / 16 * 16 + (readValue o s).toNat / 16 * 16 + (l / 10 * 16 + l % 10) := by
    omega
  have hexec := decimalModeFollowsTheNmosAlgorithm.1 o s _ l (l / 10 * 16 + l % 10) (n * 16 + l % 10)
    (n / 10 * 256 + n % 10 * 16 + l % 10) _ hdecimal rfl hl (correctedLow_add (by omega)).symm hbefore rfl
    (correctedHigh_add (by omega) (by omega)).symm
  have hdigits : (BitVec.ofNat 8 (n / 10 * 256 + n % 10 * 16 + l % 10)).toNat = n % 10 * 16 + l % 10 := by
    rw [BitVec.toNat_ofNat]
    omega
  obtain ⟨hbcd, hvalue⟩ := isBcd_of_digits hdigits (by omega) (by omega)
  refine ⟨_, hexec, hbcd, ?_, ?_⟩
  · rw [hsum, hvalue]
    omega
  · rw [hsum, decide_eq_true_iff]
    omega

/-- SBC likewise, with borrows for carries; its C is the binary comparison's, which is that of the digits. -/
theorem sbc_exact_on_digits (o : ReadOperand) (s : State) (hdecimal : decimal s = true) (ha : isBcd s.a)
    (hm : isBcd (readValue o s)) : ∃ t, exec (.sbc o) s = .next t ∧ isBcd t.a ∧
      bcdValue t.a = (bcdValue s.a + 100 - bcdValue (readValue o s) - (1 - s.p.c.toNat)) % 100 ∧
      (t.p.c = true ↔ bcdValue (readValue o s) + (1 - s.p.c.toNat) ≤ bcdValue s.a) := by
  obtain ⟨hal, hah⟩ := ha
  obtain ⟨hml, hmh⟩ := hm
  obtain ⟨b, hb⟩ : ∃ b, b = 1 - s.p.c.toNat := ⟨_, rfl⟩
  obtain ⟨l, hl⟩ : ∃ l : Int, l = ((s.a.toNat % 16 : Nat) : Int) - ((readValue o s).toNat % 16 : Nat) - b :=
    ⟨_, rfl⟩
  obtain ⟨n, hn⟩ : ∃ n : Int, n = ((s.a.toNat / 16 : Nat) : Int) - ((readValue o s).toNat / 16 : Nat) + l / 10 :=
    ⟨_, rfl⟩
  have hdiff : (bcdValue s.a : Int) - bcdValue (readValue o s) - b = n * 10 + l % 10 := by
    unfold bcdValue
    omega
  have hbefore : n * 16 + l % 10 = ((s.a.toNat / 16 * 16 : Nat) : Int) - ((readValue o s).toNat / 16 * 16 : Nat) +
      (l / 10 * 16 + l % 10) := by
    omega
  have hexec := decimalModeFollowsTheNmosAlgorithm.2 o s _ _ b l (l / 10 * 16 + l % 10) (n * 16 + l % 10)
    (n / 10 * 256 + n % 10 * 16 + l % 10) hdecimal rfl hb rfl hl (correctedLow_sub (by omega) (by omega)).symm hbefore
    (correctedHigh_sub (by omega) (by omega) (by omega) (by omega)).symm
  have hdigits : (BitVec.ofInt 8 (n / 10 * 256 + n % 10 * 16 + l % 10)).toNat =
      (n % 10).toNat * 16 + (l % 10).toNat := by
    rw [BitVec.toNat_ofInt]
    omega
  obtain ⟨hbcd, hvalue⟩ := isBcd_of_digits hdigits (by omega) (by omega)
  rw [← hb]
  refine ⟨_, hexec, hbcd, ?_, ?_⟩
  · rw [hvalue]
    omega
  · simp only [sbcFlags, decide_eq_true_iff]
    unfold bcdValue
    omega

/-- Settles O39: each algorithm's two corrections leave the columns' decimal digits. -/
theorem decimalModeIsExactOnDigits : Obligations.DecimalModeIsExactOnDigits :=
  fun o s hdecimal ha hm => ⟨adc_exact_on_digits o s hdecimal ha hm, sbc_exact_on_digits o s hdecimal ha hm⟩

end Sys2Proof.Proofs
end

section
/-! PROOFS about shifts and rotates (44_shift_rotate.md): each result as a number, the whole next state of each
instruction, and the rotates as steps round the ring of nine bits that the operand and C form. -/

namespace Sys2Proof.Proofs

open Sys2Proof Sys2Proof.Machine Sys2Proof.Claims

/-! ### Forms -/

/-- A form without a page-cross penalty costs the same whatever `crossed` says. -/
theorem hasForm_of_no_penalty {i : Instr} {op : Byte} {base : Nat} {operand : List Byte} {cross : State → Bool}
    (h : HasForm i operand cross (some ⟨op, base, false⟩)) :
    HasForm i operand (fun _ => false) (some ⟨op, base, false⟩) := h

theorem hasForm_shift : ∀ o : ShiftOperand,
    HasForm (.asl o) o.bytes (fun _ => false) (shiftForms 0x0A 0x06 0x0E 0x16 0x1E o) ∧
    HasForm (.lsr o) o.bytes (fun _ => false) (shiftForms 0x4A 0x46 0x4E 0x56 0x5E o) ∧
    HasForm (.rol o) o.bytes (fun _ => false) (shiftForms 0x2A 0x26 0x2E 0x36 0x3E o) ∧
    HasForm (.ror o) o.bytes (fun _ => false) (shiftForms 0x6A 0x66 0x6E 0x76 0x7E o)
  | .mem (.zpY _) | .mem (.absY _) | .mem (.indX _) | .mem (.indY _) => ⟨rfl, rfl, rfl, rfl⟩
  | .acc | .mem (.zp _) | .mem (.zpX _) | .mem (.abs _) | .mem (.absX _) => by
    refine ⟨?_, ?_, ?_, ?_⟩ <;> exact hasForm_of_no_penalty (hasForm_of_row rfl rfl rfl rfl rfl fun _ => rfl)

/-! ### Results as numbers -/

theorem shiftLeft_result (v : Byte) : (shiftLeft v).result = BitVec.ofNat 8 (2 * v.toNat) := by
  apply BitVec.eq_of_toNat_eq
  rw [shiftLeft, BitVec.toNat_shiftLeft, BitVec.toNat_ofNat, Nat.shiftLeft_eq, Nat.mul_comm]

theorem shiftRight_result (v : Byte) : (shiftRight v).result = BitVec.ofNat 8 (v.toNat / 2) := by
  have hv := v.isLt
  apply BitVec.eq_of_toNat_eq
  rw [shiftRight, BitVec.toNat_ushiftRight, BitVec.toNat_ofNat, Nat.shiftRight_eq_div_pow]
  omega

/-- The carry comes into the bit that the shift left empty, so OR is addition. -/
theorem rotateLeft_result (v : Byte) (c : Bool) :
    (rotateLeft v c).result = BitVec.ofNat 8 (2 * v.toNat + c.toNat) := by
  revert v c
  decide

theorem rotateRight_result (v : Byte) (c : Bool) :
    (rotateRight v c).result = BitVec.ofNat 8 (v.toNat / 2 + 128 * c.toNat) := by
  revert v c
  decide

/-! ### The next state -/

theorem finishShift_eq_nz (s : State) (o : ShiftOperand) (r : ShiftResult) :
    s.finishShift o r = { writeShift o r.result s with p := { nz s.p r.result with c := r.carry } } := rfl

/-- Settles O45: the forms operand by operand; each meaning writes its result back and then sets C, N and Z. -/
theorem shiftsMoveEveryBitByOne : Obligations.ShiftsMoveEveryBitByOne := by
  intro o
  obtain ⟨hasl, hlsr, hrol, hror⟩ := hasForm_shift o
  refine ⟨hasl, hlsr, hrol, hror, ?_⟩
  rintro s _ _ _ _ _ rfl rfl rfl rfl rfl
  simp only [exec_asl, exec_lsr, exec_rol, exec_ror, finishShift_eq_nz, shiftLeft_result, shiftRight_result,
    rotateLeft_result, rotateRight_result]
  exact ⟨rfl, rfl, rfl, rfl⟩

/-! ### The ring of nine bits

A rotate moves the operand's bits and C one place round a ring, C standing above bit 7. Places are numbers modulo 9. -/

/-- The bit at a place of the ring. -/
def ringBit (v : Byte) (c : Bool) (j : Fin 9) : Bool := if j = 8 then c else v.getLsbD j

/-- The ring holds the operand and C, and nothing of either is lost in it. -/
theorem eq_of_ringBit_eq {v w : Byte} {c d : Bool} (h : ∀ j, ringBit v c j = ringBit w d j) : v = w ∧ c = d := by
  refine ⟨BitVec.eq_of_getLsbD_eq fun i hi => ?_, h 8⟩
  have hne : (⟨i, by omega⟩ : Fin 9) ≠ 8 := Fin.ne_of_val_ne (show i ≠ 8 by omega)
  simpa only [ringBit, if_neg hne] using h ⟨i, by omega⟩

theorem ringBit_rotateLeft (v : Byte) (c : Bool) (j : Fin 9) :
    ringBit (rotateLeft v c).result (rotateLeft v c).carry (j + 1) = ringBit v c j := by
  cases c <;> fin_cases j <;> simp [rotateLeft, bitIf, ringBit]

/-- One place down is eight places up. -/
theorem ringBit_rotateRight (v : Byte) (c : Bool) (j : Fin 9) :
    ringBit (rotateRight v c).result (rotateRight v c).carry (j + 8) = ringBit v c j := by
  cases c <;> fin_cases j <;> simp [rotateRight, bitIf, ringBit]

/-! ### What a rotate does to its operand -/

/-- The operand is A or a RAM byte. -/
def OperandInRam (o : ShiftOperand) (s : State) : Prop := ∀ u ∈ shiftStores s o, u.toNat ≤ 0x1FFF

/-- Of the registers, the encodable memory modes read X alone. -/
theorem effAddr_eq_of_rmwForm {s t : State} (hx : t.x = s.x) :
    ∀ {m : MemOperand}, m.rmwForm = true → effAddr m t = effAddr m s
  | .zp _, _ | .abs _, _ => rfl
  | .zpX _, _ | .absX _, _ => by simp only [effAddr, hx]

theorem operandInRam_finishShift {o : ShiftOperand} {s : State} (hform : o.form = true) (hram : OperandInRam o s)
    (r : ShiftResult) : OperandInRam o (s.finishShift o r) := by
  cases o with
  | acc => exact hram
  | mem m => simpa only [OperandInRam, shiftStores, effAddr_eq_of_rmwForm (State.finishShift_x ..) hform] using hram

/-- The operand reads as the result just written. -/
theorem shiftValue_finishShift {o : ShiftOperand} {s : State} (hform : o.form = true) (hram : OperandInRam o s)
    (r : ShiftResult) : shiftValue o (s.finishShift o r) = r.result := by
  cases o with
  | acc => rfl
  | mem m =>
    have haddr : (effAddr m s).toNat ≤ 0x1FFF := hram _ (List.mem_singleton_self _)
    have hsame : sameRamByte (effAddr m s) (effAddr m s) = true := (sameRamByte_iff _ _).mpr ⟨haddr, haddr, rfl⟩
    rw [shiftValue, memValue, effAddr_eq_of_rmwForm (State.finishShift_x ..) hform, State.finishShift_read]
    exact if_pos hsame

/-- On an operand in A or RAM the instruction moves the ring `k` places up. -/
def RotatesBy (k : Fin 9) (o : ShiftOperand) (i : Instr) : Prop :=
  ∀ s, OperandInRam o s → ∃ t, exec i s = .next t ∧ OperandInRam o t ∧
    ∀ j, ringBit (shiftValue o t) t.p.c (j + k) = ringBit (shiftValue o s) s.p.c j

theorem rotatesBy_of_ringBit {k : Fin 9} {o : ShiftOperand} {i : Instr} {f : Byte → Bool → ShiftResult}
    (hform : o.form = true) (hexec : ∀ s, exec i s = .next (s.finishShift o (f (shiftValue o s) s.p.c)))
    (hf : ∀ v c j, ringBit (f v c).result (f v c).carry (j + k) = ringBit v c j) : RotatesBy k o i := by
  refine fun s hram => ⟨_, hexec s, operandInRam_finishShift hform hram _, fun j => ?_⟩
  rw [shiftValue_finishShift hform hram, State.finishShift_p]
  exact hf _ _ j

theorem rol_rotatesBy {o : ShiftOperand} (hform : o.form = true) : RotatesBy 1 o (.rol o) :=
  rotatesBy_of_ringBit hform (fun s => exec_rol s o) ringBit_rotateLeft

theorem ror_rotatesBy {o : ShiftOperand} (hform : o.form = true) : RotatesBy 8 o (.ror o) :=
  rotatesBy_of_ringBit hform (fun s => exec_ror s o) ringBit_rotateRight

/-! ### Round the ring -/

/-- `t` has the operand and C of `s`. -/
def SameOperand (o : ShiftOperand) (s t : State) : Prop := shiftValue o t = shiftValue o s ∧ t.p.c = s.p.c

theorem execTimes_succ {i : Instr} {s t : State} (h : exec i s = .next t) (n : Nat) :
    execTimes i (n + 1) s = execTimes i n t := by
  rw [execTimes, h]

theorem execTimes_rotatesBy {k : Fin 9} {o : ShiftOperand} {i : Instr} (hi : RotatesBy k o i) (n : Nat) {s : State}
    (hram : OperandInRam o s) : ∃ t, execTimes i n s = some t ∧
      ∀ j, ringBit (shiftValue o t) t.p.c (j + n • k) = ringBit (shiftValue o s) s.p.c j := by
  induction n generalizing s with
  | zero => exact ⟨s, rfl, fun j => by rw [zero_nsmul, add_zero]⟩
  | succ n ih =>
    obtain ⟨u, hexec, huram, hu⟩ := hi s hram
    obtain ⟨t, htimes, ht⟩ := ih huram
    refine ⟨t, (execTimes_succ hexec n).trans htimes, fun j => ?_⟩
    rw [succ_nsmul', ← add_assoc, ht, hu]

/-- Nine times any number of places is round the ring. -/
theorem nine_rotates {k : Fin 9} {o : ShiftOperand} {i : Instr} (hi : RotatesBy k o i) {s : State}
    (hram : OperandInRam o s) : ∃ t, execTimes i 9 s = some t ∧ SameOperand o s t := by
  have hround : ∀ k : Fin 9, 9 • k = 0 := by decide
  obtain ⟨t, htimes, ht⟩ := execTimes_rotatesBy hi 9 hram
  refine ⟨t, htimes, eq_of_ringBit_eq fun j => ?_⟩
  rw [← ht j, hround, add_zero]

theorem rotate_undoes {k l : Fin 9} {o : ShiftOperand} {i i' : Instr} (hi : RotatesBy k o i) (hi' : RotatesBy l o i')
    (hround : k + l = 0) {s : State} (hram : OperandInRam o s) :
    ∃ t u, exec i s = .next t ∧ exec i' t = .next u ∧ SameOperand o s u := by
  obtain ⟨t, hexec, htram, ht⟩ := hi s hram
  obtain ⟨u, hexec', -, hu⟩ := hi' t htram
  refine ⟨t, u, hexec, hexec', eq_of_ringBit_eq fun j => ?_⟩
  rw [← ht j, ← hu, add_assoc, hround, add_zero]

/-- Settles O46: ROL is one place up the ring of nine and ROR one place down. -/
theorem nineRotatesReturnToTheStart : Obligations.NineRotatesReturnToTheStart := by
  intro o s hform hram
  have hrol := rol_rotatesBy hform
  have hror := ror_rotatesBy hform
  exact ⟨nine_rotates hrol hram, nine_rotates hror hram, rotate_undoes hrol hror rfl hram,
    rotate_undoes hror hrol rfl hram⟩

end Sys2Proof.Proofs
end

section
/-! PROOFS about control transfers (45_control.md): one rule for the eight branches, the pointer of JMP Indirect as the
two bytes of one page, and the whole next state of RTS. -/

namespace Sys2Proof.Proofs

open Sys2Proof Sys2Proof.Machine Sys2Proof.Claims

/-! ### Branches -/

/-- Without a page-cross penalty the cost is the table row's and what a branch adds (70_reset_and_hazards.md R360). -/
theorem cycles_of_row {i : Instr} {op : Byte} {m : Mnemonic} {mode : Mode} {base : Nat} (hop : opcode i = some op)
    (hrow : entryAt op = .documented m mode base false) (s : State) :
    cycles i s = some (base + instrBranchCycles i s) := by
  have hbase : baseCycles op = some base := by simp only [baseCycles, hrow]
  have hpenalty : pageCrossPenalty op = false := by simp only [pageCrossPenalty, hrow]
  simp only [cycles, hop, hbase, hpenalty, Bool.false_and, Bool.false_eq_true, if_false, Nat.add_zero]

theorem branchCycles_eq (fall : Addr) (cond : Bool) (off : Byte) : branchCycles fall cond off =
    (if cond then 1 else 0) + (if cond ∧ page (fall + sext16 off) ≠ page fall then 1 else 0) := by
  cases cond with
  | false => rfl
  | true =>
    simp only [branchCycles, branchTarget, bne_iff_ne, true_and, if_true]
    split <;> rfl

/-- The branch common rule (45_control.md R250), for an instruction that branches on `cond` and whose byte has a
Relative row of two cycles. -/
theorem branch_rule {i : Instr} {op off : Byte} {m : Mnemonic} {s : State} {cond : Bool} (hop : opcode i = some op)
    (hrow : entryAt op = .documented m .relative 2 false) (hoperand : operandBytes i = [off])
    (hexec : exec i s = .next (s.branch cond off)) (hcycles : instrBranchCycles i s = branchCycles s.pc cond off) :
    encode i = [op, off] ∧
    exec i s = .next (if cond then { s with pc := s.pc + sext16 off } else s) ∧
    cycles i s = some (2 + (if cond then 1 else 0) +
      (if cond ∧ page (s.pc + sext16 off) ≠ page s.pc then 1 else 0)) := by
  refine ⟨?_, hexec, ?_⟩
  · simp only [encode, hop, hoperand]
  · rw [cycles_of_row hop hrow, hcycles, branchCycles_eq, Nat.add_assoc]

/-- Settles O47: the eight are instances of the branch common rule. -/
theorem branchesTestOneFlag : Obligations.BranchesTestOneFlag := by
  intro b op cond hmem off s
  simp only [List.mem_cons, List.not_mem_nil, or_false, Prod.mk.injEq] at hmem
  obtain ⟨rfl, rfl, rfl⟩ | ⟨rfl, rfl, rfl⟩ | ⟨rfl, rfl, rfl⟩ | ⟨rfl, rfl, rfl⟩ | ⟨rfl, rfl, rfl⟩ | ⟨rfl, rfl, rfl⟩ |
    ⟨rfl, rfl, rfl⟩ | ⟨rfl, rfl, rfl⟩ := hmem
  · exact branch_rule rfl rfl rfl (exec_bpl s off) rfl
  · exact branch_rule rfl rfl rfl (exec_bmi s off) rfl
  · exact branch_rule rfl rfl rfl (exec_bvc s off) rfl
  · exact branch_rule rfl rfl rfl (exec_bvs s off) rfl
  · exact branch_rule rfl rfl rfl (exec_bcc s off) rfl
  · exact branch_rule rfl rfl rfl (exec_bcs s off) rfl
  · exact branch_rule rfl rfl rfl (exec_bne s off) rfl
  · exact branch_rule rfl rfl rfl (exec_beq s off) rfl

/-! ### JMP -/

theorem hasForm_jmp (w : Addr) :
    HasForm (.jmp (.abs w)) [lo8 w, hi8 w] (fun _ => false) (some ⟨0x4C, 3, false⟩) ∧
    HasForm (.jmp (.ind w)) [lo8 w, hi8 w] (fun _ => false) (some ⟨0x6C, 5, false⟩) := by
  constructor <;> exact hasForm_of_row rfl rfl rfl rfl rfl fun _ => rfl

/-- The low byte of a sum takes no part of the high bytes. -/
theorem lo8_add (u v : Addr) : lo8 (u + v) = lo8 u + lo8 v := by
  apply BitVec.eq_of_toNat_eq
  simp only [lo8_toNat, BitVec.toNat_add]
  omega

theorem word_and_word (a b c d : Byte) : word a b &&& word c d = word (a &&& c) (b &&& d) := BitVec.and_append

theorem word_or_word (a b c d : Byte) : word a b ||| word c d = word (a ||| c) (b ||| d) := BitVec.or_append

/-- The masks of 40_step_and_addressing.md R146 take one byte of each address. -/
theorem maskedOr_eq_word (u v : Addr) : (u &&& 0xFF00) ||| (v &&& 0x00FF) = word (hi8 u) (lo8 v) := by
  have hhigh : u &&& 0xFF00 = word (hi8 u) 0#8 :=
    calc u &&& 0xFF00 = word (hi8 u) (lo8 u) &&& word (BitVec.allOnes 8) 0#8 := by rw [word_hi8_lo8]; rfl
      _ = word (hi8 u) 0#8 := by rw [word_and_word, BitVec.and_allOnes, BitVec.and_zero]
  have hlow : v &&& 0x00FF = word 0#8 (lo8 v) :=
    calc v &&& 0x00FF = word (hi8 v) (lo8 v) &&& word 0#8 (BitVec.allOnes 8) := by rw [word_hi8_lo8]; rfl
      _ = word 0#8 (lo8 v) := by rw [word_and_word, BitVec.and_zero, BitVec.and_allOnes]
  rw [hhigh, hlow, word_or_word, BitVec.or_zero, BitVec.zero_or]

/-- The pointer's second byte is read from the first one's page. -/
theorem indirectTarget_eq (s : State) (w : Addr) :
    s.indirectTarget w = word (s.read (word (hi8 w) (lo8 w + 1))) (s.read w) := by
  rw [State.indirectTarget, maskedOr_eq_word, lo8_add]
  rfl

/-- Settles O48: either form sets PC alone, to its target. -/
theorem jumpLoadsPcFromItsOperand : Obligations.JumpLoadsPcFromItsOperand := by
  constructor
  · intro w
    obtain ⟨⟨-, habs, -⟩, ⟨-, hind, -⟩⟩ := hasForm_jmp w
    exact ⟨habs, hind⟩
  · intro s w
    obtain ⟨⟨-, -, habs⟩, ⟨-, -, hind⟩⟩ := hasForm_jmp w
    rw [← indirectTarget_eq]
    exact ⟨habs s, hind s, exec_jmp s (.abs w), exec_jmp s (.ind w)⟩

/-! ### RTS -/

theorem implied_rts : Implied .rts 0x60 6 := implied_of_row rfl rfl rfl rfl rfl fun _ => rfl

theorem add_one_add_one (sp : Byte) : sp + 1 + 1 = sp + 2 := BitVec.add_assoc sp 1 1

/-- Settles O50: two pulls, the first of the low byte. -/
theorem rtsReturnsOnePastThePulledAddress : Obligations.RtsReturnsOnePastThePulledAddress := by
  refine ⟨implied_rts, fun s => ?_⟩
  rw [exec_rts, ← add_one_add_one]
  rfl

end Sys2Proof.Proofs
end

section
/-! PROOFS about the flag instructions and NOP (46_flag_nop.md): the **Encoding** part of each and its whole next state. -/

namespace Sys2Proof.Proofs

open Sys2Proof Sys2Proof.Machine Sys2Proof.Claims

theorem flagInstructions_implied :
    Implied .clc 0x18 2 ∧ Implied .sec 0x38 2 ∧ Implied .cli 0x58 2 ∧ Implied .sei 0x78 2 ∧
    Implied .cld 0xD8 2 ∧ Implied .sed 0xF8 2 ∧ Implied .clv 0xB8 2 ∧ Implied .nop 0xEA 2 := by
  refine ⟨?_, ?_, ?_, ?_, ?_, ?_, ?_, ?_⟩ <;> exact implied_of_row rfl rfl rfl rfl rfl fun _ => rfl

/-- Settles O55: each flag instruction replaces P by P with its one flag written; NOP's next state is the state itself. -/
theorem flagInstructionsWriteOneFlag : Obligations.FlagInstructionsWriteOneFlag :=
  ⟨flagInstructions_implied, fun s =>
    ⟨exec_clc s, exec_sec s, exec_cli s, exec_sei s, exec_cld s, exec_sed s, exec_clv s, exec_nop s⟩⟩

end Sys2Proof.Proofs
end

section
/-! PROOFS about reset and the cartridge load (70_reset_and_hazards.md): the vector that gives PC, and what a loaded
cartridge holds of its image. -/

namespace Sys2Proof.Proofs

open Sys2Proof Sys2Proof.Machine Sys2Proof.Claims

/-! ### The reset vector -/

/-- The vector is read through the Bus of the machine being constructed, low byte first (70_reset_and_hazards.md R340). -/
theorem construct_pc (cfg : Config) (r : ResetParams) (cart : Cartridge) :
    (State.construct cfg r cart).pc =
      word ((State.construct cfg r cart).read 0xFFFD) ((State.construct cfg r cart).read 0xFFFC) := rfl

/-- Settles O16: PC is the word of the two vector bytes, the second of them its high byte. -/
theorem resetVectorExampleGivesPc8000 : Obligations.ResetVectorExampleGivesPc8000 := by
  intro cfg r cart hlow hhigh
  rw [construct_pc, hlow, hhigh]
  decide

/-! ### The image of a loaded cartridge -/

/-- The offset of an image's program bytes: past the header and the trainer (70_reset_and_hazards.md R351). -/
def programStart (bytes : List Byte) : Nat := headerLength + trainerLength (bytes.getD 6 0)

/-- A load that succeeds keeps the bank count of the header and, as program storage, the slice of that many banks, all
of which lies inside the image (70_reset_and_hazards.md R350 to R352). -/
theorem load_program {bytes : List Byte} {c : Cartridge} (h : Cartridge.load bytes = .ok c) :
    c.prgBanks = (bytes.getD 4 0).toNat ∧ programStart bytes + c.prgLen ≤ bytes.length ∧
    c.prg = Memory.ofBytes 0 (slice bytes (programStart bytes) c.prgLen) := by
  simp only [Cartridge.load] at h
  split_ifs at h with _ _ _ hlen
  obtain rfl := Except.ok.inj h
  exact ⟨rfl, Nat.le_of_add_right_le (Nat.le_of_not_lt hlen), rfl⟩

theorem slice_getD (bytes : List Byte) (start : Nat) {n j : Nat} (hj : j < n) :
    (slice bytes start n).getD j 0 = bytes.getD (start + j) 0 := by
  simp only [slice, List.getD_eq_getElem?_getD, List.getElem?_take_of_lt hj, List.getElem?_drop]

theorem read_ofBytes_slice (bytes : List Byte) (start : Nat) {n j : Nat} (hj : j < n) :
    (Memory.ofBytes 0 (slice bytes start n)).read j = bytes.getD (start + j) 0 := by
  have hread := Memory.read_ofBytes (slice bytes start n) 0 j
  rwa [Nat.zero_add, slice_getD bytes start hj] at hread

/-- Settles O17: program storage is a slice of the image, so byte `j` of the one is byte `j` past the slice's start of
the other. -/
theorem cartridgeLoadRoundTrip : Obligations.CartridgeLoadRoundTrip := by
  intro bytes c hload
  obtain ⟨hbanks, hinside, hprg⟩ := load_program hload
  refine ⟨hbanks, congrArg (· * prgBankSize) hbanks, fun j hj => ⟨?_, ?_⟩⟩
  · exact Nat.lt_of_lt_of_le (Nat.add_lt_add_left hj (programStart bytes)) hinside
  · rw [hprg]
    exact read_ofBytes_slice bytes (programStart bytes) hj

end Sys2Proof.Proofs
end

section
/-! PROOFS about the whole Opcode Table (30_encoding.md R104 to R109): the class and the page-cross penalty of every
byte, and the instructions of written-out words. -/

namespace Sys2Proof.Proofs

open Sys2Proof Sys2Proof.Machine Sys2Proof.Claims

/-- Settles O3: the table is finite, and each of its rows is looked at. -/
theorem opcodeClassesAreTheListedBytes : Obligations.OpcodeClassesAreTheListedBytes := by
  unfold Obligations.OpcodeClassesAreTheListedBytes
  decide

/-- Settles O57: the table is finite, and each of its rows is looked at. -/
theorem pageCrossPenaltyIsTheListedBytes : Obligations.PageCrossPenaltyIsTheListedBytes := by
  unfold Obligations.PageCrossPenaltyIsTheListedBytes
  decide

/-- Settles O4: the decoder runs on each word. -/
theorem sampleWordsDecodeToTheirInstructions : Obligations.SampleWordsDecodeToTheirInstructions :=
  ⟨rfl, rfl, rfl, rfl, rfl, rfl, rfl, rfl, rfl, rfl⟩

end Sys2Proof.Proofs
end

section
/-! PROOFS about legal states (10_state.md, 20_memory.md) and about which bytes of memory an instruction changes. -/

namespace Sys2Proof.Proofs

open Sys2Proof Sys2Proof.Machine Sys2Proof.Claims

/-! ### Legal states -/

/-- Settles O19: the Bus keeps RAM canonical, no instruction writes the cartridge, and a step that records a fault
records the byte at the PC it started from. -/
theorem everyStepKeepsTheStateLegal : Obligations.EveryStepKeepsTheStateLegal := fun _ _ => step_legal

/-- Settles O20: the blank cartridge and empty RAM are in canonical form. -/
theorem resetStateIsLegal : Obligations.ResetStateIsLegal :=
  construct_legal Config.default ResetParams.default rfl rfl

/-! ### The frame of memory -/

theorem sub_one_sub_one (sp : Byte) : sp - 1 - 1 = sp - 2 := BitVec.sub_sub sp 1 1

/-- The groups are those of `storedAddrs`: one per operation that writes through the Bus. -/
theorem exec_read_of_not_stored (i : Instr) (s : State) (w : Addr) : ∀ t, exec i s = .next t →
    (∀ u ∈ storedAddrs s i, sameRamByte u w = false) → t.read w = s.read w := by
  cases i with
  | sta _ | stx _ | sty _ => simp +contextual [storedAddrs, State.read_write]
  | inc _ | dec _ => simp +contextual [storedAddrs]
  | asl o | lsr o | rol o | ror o => cases o <;> simp +contextual [storedAddrs, shiftStores]
  | pha | php => simp +contextual [storedAddrs, State.read_push]
  | jsr _ => simp +contextual [storedAddrs]
  | brk =>
    rw [storedAddrs, ← sub_one_sub_one]
    simp +contextual
  | _ => simp

/-- Settles O24, instruction by instruction. -/
theorem memoryChangesOnlyAtTheStoredBytes : Obligations.MemoryChangesOnlyAtTheStoredBytes :=
  fun i s t w => exec_read_of_not_stored i s w t

end Sys2Proof.Proofs
end

section
/-! PROOFS about IllegalOpcode (60_exceptions.md R300 to R302). -/

namespace Sys2Proof.Proofs

open Sys2Proof Sys2Proof.Machine Sys2Proof.Claims

/-- Settles O7. -/
theorem faultedStateHasNoStep : Obligations.FaultedStateHasNoStep := fun _ _ => step_of_fault

/-- Settles O8: a running machine has a next state, and a byte that raises leaves it no other. -/
theorem illegalByteStepOnlyRecordsTheFault : Obligations.IllegalByteStepOnlyRecordsTheFault := by
  intro s hfault hraises
  obtain ⟨-, t, hstep⟩ := everyRunningStepCompletes s hfault
  rcases step_raise_cases hstep with ⟨-, rfl⟩ | ⟨hquiet, -⟩
  · exact hstep
  · exact absurd hraises (Bool.eq_false_iff.mp hquiet)

/-- Settles O9: one past the byte before PC is PC. -/
theorem illegalInstructionRecordsTheFault : Obligations.IllegalInstructionRecordsTheFault := by
  intro op s
  rw [exec_illegal, State.raiseIllegalOpcode, BitVec.sub_add_cancel]

end Sys2Proof.Proofs
end

section
/-! PROOFS about the page cross (40_step_and_addressing.md R137): adding a byte to an address changes the page exactly
when the low byte carries. -/

namespace Sys2Proof.Proofs

open Sys2Proof Sys2Proof.Machine Sys2Proof.Claims

theorem page_ne_add_iff_carry (w : Addr) (r : Byte) :
    (page w != page (w + zext16 r)) = true ↔ 256 ≤ w.toNat % 256 + r.toNat := by
  have hw := w.isLt
  have hr := r.isLt
  rw [bne_iff_ne, ne_eq, ← BitVec.toNat_inj, page, page, hi8_toNat, hi8_toNat, add_zext16_toNat]
  omega

/-- The low byte of a zero-page pointer is its first byte. -/
theorem zpRead16_toNat_mod (s : State) (z : Byte) : (s.zpRead16 z).toNat % 256 = (s.read (word 0 z)).toNat := by
  have hlow := (s.read (word 0 z)).isLt
  rw [zpRead16_toNat]
  omega

/-- Settles O27: the three modes that add an index to a base compare the base's page with the sum's; the others
never cross. -/
theorem pageCrossIsTheCarryOfTheLowByte : Obligations.PageCrossIsTheCarryOfTheLowByte := by
  refine fun s z w => ⟨page_ne_add_iff_carry w s.x, page_ne_add_iff_carry w s.y, ?_, ?_, rfl, rfl, rfl, rfl, rfl⟩
  · rw [← zpRead16_toNat_mod]
    exact page_ne_add_iff_carry (s.zpRead16 z) s.y
  · rw [← zpRead16_toNat]
    exact add_zext16_toNat (s.zpRead16 z) s.y

end Sys2Proof.Proofs
end

section
/-! PROOFS about the stack (20_memory.md R73 to R75, 42_stack.md) and the status byte (10_state.md R36, R37). -/

namespace Sys2Proof.Proofs

open Sys2Proof Sys2Proof.Machine Sys2Proof.Claims

/-! ### Push and pull -/

/-- A pull takes SP back to where the push found it. -/
theorem afterPull_push (s : State) (v : Byte) : (s.push v).afterPull = s.write (stackAddr s.sp) v := by
  apply state_eq_of_fields <;> simp

/-- Settles O33: the pull reads the byte the push wrote, and a push writes no other. -/
theorem pullAfterPushGivesTheByteBack : Obligations.PullAfterPushGivesTheByteBack := by
  refine fun s v w => ⟨stackAddr_toNat s.sp, State.pulled_push s v, ?_, fun hw => ?_⟩
  · rw [afterPull_push]
    rfl
  · rw [State.read_push, hw]
    rfl

theorem stackInstructions_implied :
    Implied .pha 0x48 3 ∧ Implied .php 0x08 3 ∧ Implied .pla 0x68 4 ∧ Implied .plp 0x28 4 := by
  refine ⟨?_, ?_, ?_, ?_⟩ <;> exact implied_of_row rfl rfl rfl rfl rfl fun _ => rfl

/-- Settles O32: each is one push or one pull; PLA sets N and Z, PLP takes P from the byte. -/
theorem stackInstructionsPushAndPull : Obligations.StackInstructionsPushAndPull := by
  refine ⟨stackInstructions_implied, fun s => ⟨exec_pha s, exec_php s, exec_pla s, ?_⟩⟩
  rintro _ rfl
  exact exec_plp s

/-! ### The status byte -/

/-- The bits of P at their places, with bit 5 set and bit 4 clear. -/
theorem toByte_toNat (p : Status) : p.toByte.toNat =
    p.n.toNat * 128 + p.v.toNat * 64 + 32 + p.d.toNat * 8 + p.i.toNat * 4 + p.z.toNat * 2 + p.c.toNat := by
  obtain ⟨n, v, d, i, z, c⟩ := p
  revert n v d i z c
  decide

theorem toByte_and_30 (p : Status) : p.toByte &&& 0x30 = 0x20 := by
  obtain ⟨n, v, d, i, z, c⟩ := p
  revert n v d i z c
  decide

theorem toByte_ofPulled (t : Byte) : (Status.ofPulled t).toByte = (t &&& 0xCF) ||| 0x20 := by
  revert t
  decide

theorem ofPulled_toByte (p : Status) : Status.ofPulled p.toByte = p := by
  obtain ⟨hn, hv, -, -, hd, hi, hz, hc⟩ := p.toByte_bits
  rw [Status.ofPulled, hn, hv, hd, hi, hz, hc]

/-- Settles O34: bits 5 and 4 of the byte depend on no stored flag, and no stored flag on them. -/
theorem statusByteHasFixedBitsFourAndFive : Obligations.StatusByteHasFixedBitsFourAndFive :=
  fun p t => ⟨toByte_and_30 p, rfl, toByte_ofPulled t, ofPulled_toByte p, Status.ofPulled_pushed p, toByte_toNat p⟩

end Sys2Proof.Proofs
end

section
/-! PROOFS about subroutines and the vectored entry (45_control.md R261 to R264, 60_exceptions.md R311, R312): the whole
next states of JSR, BRK and RTI, and that each return undoes its entry. -/

namespace Sys2Proof.Proofs

open Sys2Proof Sys2Proof.Machine Sys2Proof.Claims

/-! ### Subroutines -/

theorem hasForm_jsr (w : Addr) : HasForm (.jsr w) [lo8 w, hi8 w] (fun _ => false) (some ⟨0x20, 6, false⟩) :=
  hasForm_of_row rfl rfl rfl rfl rfl fun _ => rfl

/-- Settles O49: two pushes, the first of the high byte, and a jump. -/
theorem jsrPushesItsLastByteAddress : Obligations.JsrPushesItsLastByteAddress := by
  intro w s
  obtain ⟨-, hencode, hcycles⟩ := hasForm_jsr w
  refine ⟨hencode, hcycles s, ?_⟩
  rw [exec_jsr, ← sub_one_sub_one]
  rfl

theorem pulledAddr_setPc (s : State) (w : Addr) : (s.setPc w).pulledAddr = s.pulledAddr := rfl

/-- Settles O51: the address pulled is the address pushed, of the last byte of the JSR. -/
theorem rtsUndoesJsr : Obligations.RtsUndoesJsr := by
  rintro w q s _ ⟨⟩
  refine ⟨_, exec_rts _, ?_⟩
  rw [pulledAddr_setPc, pulledAddr_setPc, State.pulledAddr_pushAddr]
  apply state_eq_of_fields <;> simp

/-! ### The vectored entry and its return -/

theorem sub_one_sub_two (sp : Byte) : sp - 2 - 1 = sp - 3 := BitVec.sub_sub sp 2 1

theorem implied_brk : Implied .brk 0x00 7 := implied_of_row rfl rfl rfl rfl rfl fun _ => rfl

theorem implied_rti : Implied .rti 0x40 6 := implied_of_row rfl rfl rfl rfl rfl fun _ => rfl

/-- Settles O52: three pushes below SP, and PC from the vector, which lies in the cartridge window and so out of their
reach. -/
theorem brkTakesTheVectoredEntry : Obligations.BrkTakesTheVectoredEntry := by
  refine ⟨implied_brk, fun s => ?_⟩
  obtain ⟨ha, hx, hy, hsp, hp, hpc, hcart, hfault, hcfg, hram⟩ := s.enterTrap_fields (s.pc + 1)
  rw [exec_brk, ← sub_one_sub_two, ← sub_one_sub_one]
  exact congrArg _ (state_eq_of_fields ha hx hy hsp hpc hp hram hcart hfault hcfg)

theorem add_two_add_one (sp : Byte) : sp + 2 + 1 = sp + 3 := BitVec.add_assoc sp 2 1

/-- Settles O53: three pulls, the first of P, then PC low byte first. -/
theorem rtiRestoresStatusAndPc : Obligations.RtiRestoresStatusAndPc := by
  refine ⟨implied_rti, ?_⟩
  rintro s _ rfl
  rw [exec_rti, ← add_two_add_one, ← add_one_add_one]
  rfl

theorem returnFromTrap_setPc (s : State) (w : Addr) : (s.setPc w).returnFromTrap = s.returnFromTrap := rfl

theorem pulled_enterTrap (s : State) (ret : Addr) : (s.enterTrap ret).pulled = s.p.pushed := by
  simp [State.pulled, sameRamByte_stackAddr]

/-- Above the copy of P lies the return address. -/
theorem pulledAddr_afterPull_enterTrap (s : State) (ret : Addr) : (s.enterTrap ret).afterPull.pulledAddr = ret := by
  have hsp : s.sp - 1#8 - 1#8 ≠ s.sp := by bv_omega
  simp [State.pulledAddr, State.pulled, sameRamByte_stackAddr, hsp]

/-- Settles O54: the return pulls the three bytes that the entry pushed, and keeps the rest of the handler's state. -/
theorem rtiUndoesBrk : Obligations.RtiUndoesBrk := by
  rintro q p s _ ⟨⟩
  refine ⟨_, exec_rti _, ?_⟩
  rw [returnFromTrap_setP, returnFromTrap_setPc]
  apply state_eq_of_fields <;> simp [pulled_enterTrap, pulledAddr_afterPull_enterTrap]

end Sys2Proof.Proofs
end

section
/-! PROOFS about the undocumented NOPs (46_flag_nop.md R288 to R293). -/

namespace Sys2Proof.Proofs

open Sys2Proof Sys2Proof.Machine Sys2Proof.Laws Sys2Proof.Claims

/-- An undocumented NOP of a listed byte has the form of the row its mode's bytes share (30_encoding.md R104, R108). -/
theorem hasForm_of_listed {l : List Byte} {i : Instr} {op : Byte} {mode : Mode} {base : Nat} {penalty : Bool}
    {operand : List Byte} {cross : State → Bool} (hmem : op ∈ l) (hwf : i.wellFormed = l.contains op)
    (hop : opcode i = if l.contains op then some op else none)
    (hrows : ∀ op ∈ l, entryAt op = .undocumentedNop mode base penalty) (hoperand : operandBytes i = operand)
    (hcross : instrCrossed i = cross) (hbranch : ∀ s, instrBranchCycles i s = 0) :
    HasForm i operand cross (some ⟨op, base, penalty⟩) := by
  have hlisted := (contains_iff_mem l op).mpr hmem
  have hbase : baseCycles op = some base := by simp only [baseCycles, hrows op hmem]
  have hpenalty : pageCrossPenalty op = penalty := by simp only [pageCrossPenalty, hrows op hmem]
  rw [if_pos hlisted] at hop
  refine ⟨hwf.trans hlisted, ?_, fun s => ?_⟩
  · simp only [encode, hop, hoperand]
  · simp only [cycles, hop, hbase, hpenalty, hcross, hbranch, Nat.add_zero]

theorem undocumentedNop_of_policy_on {s : State} (h : s.cfg.undocNopExec = true) (op : Byte) (n : Addr) :
    undocumentedNop op n s = s := if_pos h

/-- What an undocumented NOP of `n` bytes does under each policy. -/
theorem undocumentedNop_rule {i : Instr} {s : State} {op : Byte} {n : Addr}
    (hexec : exec i s = .next (undocumentedNop op n s)) :
    (s.cfg.undocNopExec = true → exec i s = .next s) ∧
    (s.cfg.undocNopExec = false → exec i s = .next
      { s with pc := s.pc - n + 1, fault := some { op := op, addr := s.pc - n } }) :=
  ⟨fun h => by rw [hexec, undocumentedNop_of_policy_on h],
   fun h => by rw [hexec, undocumentedNop_of_policy_off h]; rfl⟩

/-- Settles O56: the forms are those of the rows of the listed bytes; the meanings are one operation, given
the length. -/
theorem undocumentedNopsFollowThePolicy : Obligations.UndocumentedNopsFollowThePolicy := by
  obtain ⟨himp, himm, hzp, hzpX, habsX, -⟩ := entryAt_of_mem
  have habs : ∀ op ∈ [(0x0C : Byte)], entryAt op = .undocumentedNop .absolute 4 false := by decide
  constructor
  · exact ⟨fun op hop => hasForm_of_listed hop rfl rfl himp rfl rfl fun _ => rfl,
      fun op hop v => hasForm_of_listed hop rfl rfl himm rfl rfl fun _ => rfl,
      fun op hop z => hasForm_of_listed hop rfl rfl hzp rfl rfl fun _ => rfl,
      fun op hop z => hasForm_of_listed hop rfl rfl hzpX rfl rfl fun _ => rfl,
      fun w => hasForm_of_listed (List.mem_singleton_self _) rfl rfl habs rfl rfl fun _ => rfl,
      fun op hop w => hasForm_of_listed hop rfl rfl habsX rfl rfl fun _ => rfl⟩
  · intro op v w i n hmem s
    simp only [List.mem_cons, List.not_mem_nil, or_false, Prod.mk.injEq] at hmem
    obtain (⟨rfl, rfl⟩ | ⟨rfl, rfl⟩ | ⟨rfl, rfl⟩ | ⟨rfl, rfl⟩ | ⟨rfl, rfl⟩) | ⟨rfl, rfl, rfl⟩ := hmem
    · exact undocumentedNop_rule (exec_nopImp s op)
    · exact undocumentedNop_rule (exec_nopImm s op v)
    · exact undocumentedNop_rule (exec_nopZp s op v)
    · exact undocumentedNop_rule (exec_nopZpX s op v)
    · exact undocumentedNop_rule (exec_nopAbsX s op w)
    · exact undocumentedNop_rule (exec_nopAbs s w)

end Sys2Proof.Proofs
end

section
/-! PROOFS about construction (70_reset_and_hazards.md R340, R341) and about the images the load rejects (R352). -/

namespace Sys2Proof.Proofs

open Sys2Proof Sys2Proof.Machine Sys2Proof.Claims

/-- Settles O15: the vector's two bytes lie in the cartridge window; every other field is an argument. -/
theorem constructionSetsTheResetValues : Obligations.ConstructionSetsTheResetValues := by
  intro cfg r cart _
  refine ⟨?_, rfl, rfl, rfl, rfl, rfl, rfl, rfl, rfl, rfl⟩
  rw [construct_pc, read_of_cartridge _ (by decide), read_of_cartridge _ (by decide)]
  rfl

/-- The causes of R352: a wrong signature, a cut-off header, no program bank, or fewer bytes than the header counts. -/
def BadImage (bytes : List Byte) : Prop :=
  bytes.take 4 ≠ magicBytes ∨ bytes.length < headerLength ∨ (bytes.getD 4 0).toNat = 0 ∨
    bytes.length < programStart bytes + (bytes.getD 4 0).toNat * prgBankSize + (bytes.getD 5 0).toNat * chrBankSize

theorem load_of_badImage {bytes : List Byte} (h : BadImage bytes) : Cartridge.load bytes = .error .formatError := by
  simp only [Cartridge.load]
  split_ifs with hheader hmagic hbanks hlength <;> try rfl
  rcases h with h | h | h | h
  · exact absurd h hmagic
  · exact absurd h hheader
  · exact absurd h hbanks
  · exact absurd h hlength

theorem load_of_not_badImage {bytes : List Byte} (h : ¬ BadImage bytes) : ∃ c, Cartridge.load bytes = .ok c := by
  simp only [BadImage, not_or, not_not] at h
  obtain ⟨hmagic, hheader, hbanks, hlength⟩ := h
  exact ⟨_, (if_neg hheader).trans ((if_neg (not_not.mpr hmagic)).trans ((if_neg hbanks).trans (if_neg hlength)))⟩

/-- What a loaded cartridge holds beside its program bytes. -/
theorem load_beside_program {bytes : List Byte} {c : Cartridge} (h : Cartridge.load bytes = .ok c) :
    c.chrBanks = (bytes.getD 5 0).toNat ∧ c.mapper = mapperOf (bytes.getD 6 0) (bytes.getD 7 0) ∧
    c.mirroring = mirroringOf (bytes.getD 6 0) ∧
    c.chr = Memory.ofBytes 0 (slice bytes (programStart bytes + (bytes.getD 4 0).toNat * prgBankSize)
      ((bytes.getD 5 0).toNat * chrBankSize)) := by
  simp only [Cartridge.load] at h
  split_ifs at h
  obtain rfl := Except.ok.inj h
  exact ⟨rfl, rfl, rfl, rfl⟩

theorem mirroringOf_eq_vertical_iff (flags6 : Byte) : mirroringOf flags6 = .vertical ↔ flags6.getLsbD 0 = true := by
  simp [mirroringOf]

/-- Settles O18: character storage is the slice of the image after the program bytes. -/
theorem cartridgeLoadFailsExactlyOnBadImages : Obligations.CartridgeLoadFailsExactlyOnBadImages := by
  refine fun bytes => ⟨load_of_badImage, fun hgood => ?_⟩
  obtain ⟨c, hload⟩ := load_of_not_badImage hgood
  obtain ⟨hbanks, hmapper, hmirroring, hchr⟩ := load_beside_program hload
  refine ⟨c, hload, load_wf hload, hbanks, hmapper, ?_, fun j hj => ?_⟩
  · rw [hmirroring, mirroringOf_eq_vertical_iff]
  · rw [hchr]
    exact read_ofBytes_slice bytes _ hj

end Sys2Proof.Proofs
end

section
/-! PROOFS about what `step()` returns (40_step_and_addressing.md R130, 70_reset_and_hazards.md R360 to R362). -/

namespace Sys2Proof.Proofs

open Sys2Proof Sys2Proof.Machine Sys2Proof.Claims

/-- The most that taking a branch adds to the cycle count (45_control.md R250). -/
def maxBranchCycles : Instr → Nat
  | .bpl _ | .bmi _ | .bvc _ | .bvs _ | .bcc _ | .bcs _ | .bne _ | .beq _ => 2
  | _ => 0

theorem branchCycles_le_two (fall : Addr) (cond : Bool) (off : Byte) : branchCycles fall cond off ≤ 2 := by
  unfold branchCycles
  split
  · split <;> decide
  · decide

theorem instrBranchCycles_le (i : Instr) (s : State) : instrBranchCycles i s ≤ maxBranchCycles i := by
  cases i with
  | bpl _ | bmi _ | bvc _ | bvs _ | bcc _ | bcs _ | bne _ | beq _ => exact branchCycles_le_two _ _ _
  | _ => exact Nat.le_refl 0

theorem maxBranchCycles_instrOf (op b1 b2 : Byte) :
    maxBranchCycles (instrOf op b1 b2) = maxBranchCycles (instrOf op 0 0) :=
  apply_instrOf maxBranchCycles op b1 b2 (fun m mode => by cases m <;> cases mode <;> rfl)
    (fun mode => by cases mode <;> rfl)

/-- A byte that raises nothing is not illegal, whatever the policy; its row gives 2 to 7 cycles, penalties included. -/
theorem baseCycles_of_not_raises {cfg : Config} {op : Byte} (h : raisesIllegal cfg op = false) :
    ∃ base, baseCycles op = some base ∧ 2 ≤ base ∧
      base + (if pageCrossPenalty op then 1 else 0) + maxBranchCycles (instrOf op 0 0) ≤ 7 := by
  have htable : ∀ op : Byte, opcodeClass op ≠ .illegal → ∃ base ∈ baseCycles op, 2 ≤ base ∧
      base + (if pageCrossPenalty op then 1 else 0) + maxBranchCycles (instrOf op 0 0) ≤ 7 := by decide
  apply htable
  intro hillegal
  simp [raisesIllegal, hillegal] at h

/-- A fetched instruction that raises nothing costs 2 to 7 cycles. -/
theorem cycles_fetchInstr_of_not_raises {s : State} (h : raisesIllegal s.cfg s.fetchOpcode = false) (t : State) :
    ∃ n, cycles s.fetchInstr t = some n ∧ 2 ≤ n ∧ n ≤ 7 := by
  obtain ⟨b1, b2, hfetch⟩ := fetchInstr_eq_instrOf s
  obtain ⟨base, hbase, htwo, hseven⟩ := baseCycles_of_not_raises h
  have hbranch := instrBranchCycles_le s.fetchInstr t
  have hcross : (if pageCrossPenalty s.fetchOpcode && instrCrossed s.fetchInstr t then 1 else 0) ≤
      if pageCrossPenalty s.fetchOpcode then 1 else 0 := by
    cases pageCrossPenalty s.fetchOpcode <;> cases instrCrossed s.fetchInstr t <;> decide
  have hcycles : cycles s.fetchInstr t = some (base +
      (if pageCrossPenalty s.fetchOpcode && instrCrossed s.fetchInstr t then 1 else 0) +
      instrBranchCycles s.fetchInstr t) := by
    have hop : opcode s.fetchInstr = some s.fetchOpcode := by rw [hfetch, opcode_instrOf]
    simp only [cycles, hop, hbase]
  have hmax : maxBranchCycles s.fetchInstr = maxBranchCycles (instrOf s.fetchOpcode 0 0) := by
    rw [hfetch, maxBranchCycles_instrOf]
  refine ⟨_, hcycles, by omega, by omega⟩

/-- Settles O58: the step and its answer take the same test of the opcode byte. -/
theorem stepResultAgreesWithTheStep : Obligations.StepResultAgreesWithTheStep := by
  intro s t hstep
  obtain ⟨hrunning, -⟩ := step_next hstep
  rcases step_raise_cases hstep with ⟨hraises, rfl⟩ | ⟨hquiet, hfault⟩
  · refine .inr ⟨rfl, ?_⟩
    change stepResult s = some (.illegalOpcode s.fetchOpcode s.pc)
    simp only [stepResult, hrunning, hraises, if_true]
  · obtain ⟨n, hcycles, hrange⟩ := cycles_fetchInstr_of_not_raises hquiet (s.setPc s.fallThrough)
    refine .inl ⟨hfault, n, ?_, hrange⟩
    simp only [stepResult, hrunning, hquiet, hcycles, Bool.false_eq_true, if_false, Option.map_some]

end Sys2Proof.Proofs
end

section
/-! PROOFS about the placing of an instruction's bytes (Machine/Fetch.lean): each placed byte is read back, since the
storage behind three consecutive addresses is three different cells. -/

namespace Sys2Proof.Proofs

open Sys2Proof Sys2Proof.Machine Sys2Proof.Claims

/-! ### One placed byte -/

/-- Two addresses name the same cell of program storage. -/
def samePrgByte (cart : Cartridge) (u w : Addr) : Bool :=
  isCartridge u && isCartridge w && prgIndex cart u == prgIndex cart w

/-- Two addresses name the same cell of RAM or of program storage. -/
def sameCell (cart : Cartridge) (u w : Addr) : Bool := sameRamByte u w || samePrgByte cart u w

theorem not_isCartridge_of_isRam {w : Addr} (h : isRam w = true) : isCartridge w = false :=
  Bool.eq_false_iff.mpr fun hcart => by simp [not_isRam_of_isCartridge hcart] at h

/-- What a read gives after a byte is placed in program storage. -/
theorem read_place_of_isCartridge (s : State) {u : Addr} (hu : isCartridge u = true) (w : Addr) (v : Byte) :
    (s.place u v).read w = if samePrgByte s.cart u w then v else s.read w := by
  have hplace : s.place u v = { s with cart := { s.cart with prg := s.cart.prg.write (prgIndex s.cart u) v } } := by
    simp only [State.place, not_isRam_of_isCartridge hu, hu, Bool.false_eq_true, if_false, if_true]
  rw [hplace]
  by_cases hw : isCartridge w = true
  · simp only [samePrgByte, State.read, busRead, hu, hw, not_isRam_of_isCartridge hw, Bool.and_self, Bool.true_and,
      beq_iff_eq, Bool.false_eq_true, if_false, if_true]
    exact Memory.read_write _ _ _ _
  · simp only [samePrgByte, State.read, busRead, hw, Bool.and_false, Bool.false_and, Bool.false_eq_true, if_false]

/-- What a read gives after a byte is placed. -/
theorem read_place (s : State) (u w : Addr) (v : Byte) :
    (s.place u v).read w = if sameCell s.cart u w then v else s.read w := by
  by_cases hram : isRam u = true
  · have hplace : s.place u v = s.write u v := by simp only [State.place, State.write, busWrite, hram, if_true]
    have hcell : sameCell s.cart u w = sameRamByte u w := by
      simp [sameCell, samePrgByte, not_isCartridge_of_isRam hram]
    rw [hplace, hcell, State.read_write]
  · have hcell : sameCell s.cart u w = samePrgByte s.cart u w := by simp [sameCell, sameRamByte, hram]
    rw [hcell]
    by_cases hcart : isCartridge u = true
    · exact read_place_of_isCartridge s hcart w v
    · simp [State.place, samePrgByte, hram, hcart]

theorem sameCell_self {u : Addr} (h : hasStorage u = true) (cart : Cartridge) : sameCell cart u u = true := by
  simpa [sameCell, sameRamByte, samePrgByte, hasStorage] using h

/-- Addresses closer than RAM's 2048 bytes name different cells: program storage is no shorter. -/
theorem sameCell_add_eq_false {cart : Cartridge} (hcart : cart.wf = true) (u : Addr) {k : Addr} (hpos : 0 < k.toNat)
    (hk : k.toNat < 2048) : sameCell cart (u + k) u = false := by
  have hlen : 2048 ≤ cart.prgLen := by
    simp only [Cartridge.wf, Bool.and_eq_true, decide_eq_true_eq] at hcart
    unfold Cartridge.prgLen prgBankSize
    omega
  have hadd : (u + k).toNat = (u.toNat + k.toNat) % 65536 := BitVec.toNat_add u k
  have hu := u.isLt
  have hram : ¬ sameRamByte (u + k) u = true := by
    rw [sameRamByte_iff]
    omega
  have hprg : ¬ samePrgByte cart (u + k) u = true := by
    simp only [samePrgByte, Bool.and_eq_true, isCartridge_iff, beq_iff_eq, prgIndex]
    rintro ⟨⟨hhigh, hlow⟩, hindex⟩
    have hdiff : (u + k).toNat - 0x8000 - (u.toNat - 0x8000) = k.toNat := by omega
    have hmod := Nat.sub_mod_eq_zero_of_mod_eq hindex
    rw [hdiff, Nat.mod_eq_of_lt (Nat.lt_of_lt_of_le hk hlen)] at hmod
    omega
  simp only [sameCell, hram, hprg, Bool.or_self]

/-! ### Three placed bytes -/

/-- What an instruction is decoded from (40_step_and_addressing.md R131, R133). -/
def threeBytes (s : State) (u : Addr) : List Byte := [s.read u, s.read (u + 1), s.read (u + 2)]

theorem threeBytes_placeAll {s : State} (hcart : s.cart.wf = true) {u : Addr} (h0 : hasStorage u = true)
    (h1 : hasStorage (u + 1) = true) (h2 : hasStorage (u + 2) = true) (b0 b1 b2 : Byte) :
    threeBytes (s.placeAll u [b0, b1, b2]) u = [b0, b1, b2] := by
  have hcart1 := State.place_cart_wf u b0 hcart
  have hcart2 := State.place_cart_wf (u + 1) b1 hcart1
  have htwo : u + 1 + 1 = u + 2 := BitVec.add_assoc u 1 1
  have h10 := sameCell_add_eq_false hcart1 u (k := 1) (by decide) (by decide)
  have h20 := sameCell_add_eq_false hcart2 u (k := 2) (by decide) (by decide)
  have h21 := sameCell_add_eq_false hcart2 (u + 1) (k := 1) (by decide) (by decide)
  rw [htwo] at h21
  simp only [threeBytes, State.placeAll, htwo, read_place, h10, h20, h21, sameCell_self h0, sameCell_self h1,
    sameCell_self h2, Bool.false_eq_true, if_false, if_true]

theorem placeAll_pc (s : State) (u : Addr) (bs : List Byte) : (s.placeAll u bs).pc = s.pc := by
  induction bs generalizing s u with
  | nil => rfl
  | cons b bs ih => rw [State.placeAll, ih, State.place_pc]

theorem placeAll_fault (s : State) (u : Addr) (bs : List Byte) : (s.placeAll u bs).fault = s.fault := by
  induction bs generalizing s u with
  | nil => rfl
  | cons b bs ih => rw [State.placeAll, ih, State.place_fault]

/-- Where the bytes are placed there is storage: the zero page is RAM. -/
theorem hasStorage_placingAddr (s : State) : hasStorage s.placingAddr = true ∧
    hasStorage (s.placingAddr + 1) = true ∧ hasStorage (s.placingAddr + 2) = true := by
  unfold State.placingAddr
  split
  case isTrue h => simpa only [Bool.and_eq_true, and_assoc] using h
  case isFalse => decide

/-! ### The next step -/

theorem decode_of_decodeTableWord {nbits w : Nat} {i : Instr} (h : decodeTableWord nbits w = some i) :
    ∃ rest, decode (tableBytes nbits w) = .ok (i, rest) := by
  unfold decodeTableWord at h
  split at h
  case h_1 hdecode => exact ⟨_, by rw [hdecode, Option.some.inj h]⟩
  case h_2 => cases h

theorem withFetchWord_fault (s : State) (nbits w : Nat) : (s.withFetchWord nbits w).fault = none := by
  rw [State.withFetchWord, placeAll_fault]

theorem withFetchWord_pc (s : State) (nbits w : Nat) : (s.withFetchWord nbits w).pc = s.placingAddr := by
  rw [State.withFetchWord, placeAll_pc]

theorem threeBytes_withFetchWord {s : State} (hcart : s.cart.wf = true) (nbits w : Nat) :
    threeBytes (s.withFetchWord nbits w) (s.withFetchWord nbits w).pc = tableBytes nbits w := by
  obtain ⟨h0, h1, h2⟩ := hasStorage_placingAddr s
  rw [withFetchWord_pc]
  exact threeBytes_placeAll (s := { s with pc := s.placingAddr, fault := none }) hcart h0 h1 h2 _ _ _

/-- Settles O59: the bytes at PC are the word's, and a running machine steps by what they decode to. -/
theorem placedWordIsTheNextInstruction : Obligations.PlacedWordIsTheNextInstruction := by
  intro s nbits w i hcart hword
  obtain ⟨rest, hdecode⟩ := decode_of_decodeTableWord hword
  rw [← threeBytes_withFetchWord hcart] at hdecode
  exact stepRunsTheDecodedInstruction _ i rest (withFetchWord_fault s nbits w) hdecode

end Sys2Proof.Proofs
end
